-- ==== Sys2Proof/Word.lean ====
section
/-! DEFINITION. The widths of the block's values (00_scope.md R6, R10; 30_encoding.md R60). -/

namespace Sys2Proof

/-- A byte of a type code or of a message. -/
abbrev Byte := BitVec 8

/-- A 32-bit value: `arg`, `rsp`, `crc` and the STATUS word (R6). -/
abbrev Word := BitVec 32

/-- The command field `cmd` (R61). -/
abbrev Cmd := BitVec 4

/-- A command word `cmd[35:32] ‖ arg[31:0]` (R60). -/
abbrev CommandWord := BitVec 36

end Sys2Proof
end

