-- ==== Sys2Proof/Syntax.lean ====
section
/-! DEFINITION. The commands of command set v1, one constructor per row of the opcode map (30_encoding.md R64).
An operand is what the row's operand form reads of `arg` (R62); `arg` bits a form ignores are not kept (R63). -/

namespace Sys2Proof

inductive Instr where
  /-- NOP (R130). -/
  | nop
  /-- TC_EVAL (R88): the four type-code bytes, byte 1 in bits 31:24. -/
  | tcEval (arg : Word)
  /-- CRC_INIT (R107). -/
  | crcInit
  /-- CRC_BYTE (R108): the byte `arg[7:0]`. -/
  | crcByte (d : Byte)
  /-- CRC_WORD (R109): four bytes, the first fed in bits 31:24. -/
  | crcWord (arg : Word)
  /-- CRC_READ (R110). -/
  | crcRead
  /-- CRC_CHECK (R111): the stored checksum. -/
  | crcCheck (checksum : Word)
  /-- CRC_STATE_READ (R112). -/
  | crcStateRead
  /-- CRC_STATE_WRITE (R113): the raw value for `crc`. -/
  | crcStateWrite (state : Word)
  /-- STATUS_READ (R131). -/
  | statusRead
  /-- STATUS_CLEAR (R132). -/
  | statusClear
  /-- The reserved command 0xB (R133). -/
  | rsvd0xB
  /-- The reserved command 0xC (R133). -/
  | rsvd0xC
  /-- The reserved command 0xD (R133). -/
  | rsvd0xD
  /-- The reserved command 0xE (R133). -/
  | rsvd0xE
  /-- The reserved command 0xF (R133). -/
  | rsvd0xF
deriving DecidableEq, Repr

end Sys2Proof
end

