-- ==== Sys2Proof/Machine/Operands.lean ====
section
/-! DEFINITION. How `arg` is read: the operand forms (30_encoding.md R62), the four bytes of a word (00_scope.md R9)
and the big-endian order of bytes on the wire (20_memory.md R43 to R46). -/

namespace Sys2Proof.Machine

/-- `byte_1(w) = w[31:24]` (R9): the first byte on the wire. -/
def byte1 (w : Word) : Byte := w.extractLsb' 24 8

/-- `byte_2(w) = w[23:16]` (R9). -/
def byte2 (w : Word) : Byte := w.extractLsb' 16 8

/-- `byte_3(w) = w[15:8]` (R9). -/
def byte3 (w : Word) : Byte := w.extractLsb' 8 8

/-- `byte_4(w) = w[7:0]` (R9): the last byte on the wire. -/
def byte4 (w : Word) : Byte := w.extractLsb' 0 8

/-- The four bytes of a word in wire order (R43): the order CRC_WORD feeds, and the order in which a final CRC is
written to a chunk's checksum field (R45). -/
def wireBytes (w : Word) : List Byte := [byte1 w, byte2 w, byte3 w, byte4 w]

/-- Four consecutive wire bytes as a big-endian word, `c0 ‖ c1 ‖ c2 ‖ c3` (R44, R46). -/
def packBE (c0 c1 c2 c3 : Byte) : Word := c0 ++ c1 ++ c2 ++ c3

/-- The operand forms of R62. -/
inductive OperandForm where
  | none | typecode | byte | bytes4 | checksum | state
deriving DecidableEq, Repr

/-- The `arg` bits a form reads; the others are ignored (R62, R63). -/
def OperandForm.used : OperandForm → Word
  | .none => 0x00000000#32
  | .byte => 0x000000FF#32
  | .typecode | .bytes4 | .checksum | .state => 0xFFFFFFFF#32

/-- How many bits an assembler operand of the form may have; a form that takes no operand has none
(R68, R69: 8 bits for CRC_BYTE, 32 bits otherwise). -/
def OperandForm.width? : OperandForm → Option Nat
  | .none => Option.none
  | .byte => some 8
  | .typecode | .bytes4 | .checksum | .state => some 32

/-- The operand form of a command (the table of R64). -/
def formOf : Instr → OperandForm
  | .nop | .crcInit | .crcRead | .crcStateRead | .statusRead | .statusClear => .none
  | .rsvd0xB | .rsvd0xC | .rsvd0xD | .rsvd0xE | .rsvd0xF => .none
  | .tcEval _ => .typecode
  | .crcByte _ => .byte
  | .crcWord _ => .bytes4
  | .crcCheck _ => .checksum
  | .crcStateWrite _ => .state

end Sys2Proof.Machine
end

