-- ==== Sys2Proof/WellFormed.lean ====
section
/-! DEFINITION. Well-formedness. A term of `Instr` has operands of exactly the widths of R62, so each one is a
command the block accepts (30_encoding.md R65, R66). What can be ill-formed is a WRITTEN command: an operand
where the form takes none, a missing one, or a value that does not fit (R68, R69). -/

namespace Sys2Proof

/-- Every command is well-formed: the operands' types carry R62's widths, and the reserved commands are performed,
not refused (R66). -/
def Instr.wellFormed : Instr → Bool
  | .nop | .crcInit | .crcRead | .crcStateRead | .statusRead | .statusClear => true
  | .tcEval _ | .crcByte _ | .crcWord _ | .crcCheck _ | .crcStateWrite _ => true
  | .rsvd0xB | .rsvd0xC | .rsvd0xD | .rsvd0xE | .rsvd0xF => true

/-- A written operand suits an operand form: none for the form `none`, else exactly one, whose value fits
(R68, R69). -/
def operandFits (form : Machine.OperandForm) (operand : Option Nat) : Bool :=
  match form.width?, operand with
  | none, none => true
  | none, some _ => false
  | some _, none => false
  | some width, some n => decide (n < 2 ^ width)

end Sys2Proof
end

