-- ==== Sys2Proof/Decode.lean ====
section
/-! DEFINITION. The command encoding (30_encoding.md R60 to R67): the two fields, the opcode map, the decoder and
the encoder. -/

namespace Sys2Proof

/-- `cmd = w[35:32]` (R60). -/
def cmdOf (w : CommandWord) : Cmd := w.extractLsb' 32 4

/-- `arg = w[31:0]` (R60). -/
def argOf (w : CommandWord) : Word := w.extractLsb' 0 32

/-- The command word `cmd ‖ arg` (R60). -/
def commandWord (cmd : Cmd) (arg : Word) : CommandWord := cmd ++ arg

/-- The command of a `cmd` and an `arg`: `cmd` alone selects it (R64). `cmd` has 4 bits, so the last arm is 0xF. -/
def decodeFields (cmd : Cmd) (arg : Word) : Instr :=
  match cmd.toNat with
  | 0x0 => .nop
  | 0x1 => .tcEval arg
  | 0x2 => .crcInit
  | 0x3 => .crcByte (Machine.byte4 arg)
  | 0x4 => .crcWord arg
  | 0x5 => .crcRead
  | 0x6 => .crcCheck arg
  | 0x7 => .crcStateRead
  | 0x8 => .crcStateWrite arg
  | 0x9 => .statusRead
  | 0xA => .statusClear
  | 0xB => .rsvd0xB
  | 0xC => .rsvd0xC
  | 0xD => .rsvd0xD
  | 0xE => .rsvd0xE
  | _ => .rsvd0xF

/-- The decoder, total (R65). -/
def decode (w : CommandWord) : Instr := decodeFields (cmdOf w) (argOf w)

/-- A command's `cmd` value (the opcode map, R64). -/
def opcodeOf : Instr → Cmd
  | .nop => 0x0#4
  | .tcEval _ => 0x1#4
  | .crcInit => 0x2#4
  | .crcByte _ => 0x3#4
  | .crcWord _ => 0x4#4
  | .crcRead => 0x5#4
  | .crcCheck _ => 0x6#4
  | .crcStateRead => 0x7#4
  | .crcStateWrite _ => 0x8#4
  | .statusRead => 0x9#4
  | .statusClear => 0xA#4
  | .rsvd0xB => 0xB#4
  | .rsvd0xC => 0xC#4
  | .rsvd0xD => 0xD#4
  | .rsvd0xE => 0xE#4
  | .rsvd0xF => 0xF#4

/-- A command's `arg` in its canonical encoding: the operand, with 0 in every ignored bit (R62, R63). -/
def operandOf : Instr → Word
  | .nop | .crcInit | .crcRead | .crcStateRead | .statusRead | .statusClear => 0#32
  | .rsvd0xB | .rsvd0xC | .rsvd0xD | .rsvd0xE | .rsvd0xF => 0#32
  | .crcByte d => d.setWidth 32
  | .tcEval arg | .crcWord arg | .crcCheck arg | .crcStateWrite arg => arg

/-- The canonical command word of a command (R60, R63). -/
def encode (i : Instr) : CommandWord := commandWord (opcodeOf i) (operandOf i)

/-- Whether `cmd` is one of the five reserved values 0xB to 0xF (R66). -/
def isReservedCmd (c : Cmd) : Bool := decide (0xB#4 ≤ c)

/-- Whether a command is one of the five reserved ones (R66). -/
def Instr.isReserved : Instr → Bool
  | .rsvd0xB | .rsvd0xC | .rsvd0xD | .rsvd0xE | .rsvd0xF => true
  | .nop | .crcInit | .crcRead | .crcStateRead | .statusRead | .statusClear => false
  | .tcEval _ | .crcByte _ | .crcWord _ | .crcCheck _ | .crcStateWrite _ => false

/-- A command word is canonical when every `arg` bit its command ignores is 0 (R63). -/
def isCanonical (w : CommandWord) : Bool :=
  decide (argOf w &&& ~~~(Machine.formOf (decode w)).used = 0#32)

/-- One row of spec/opcode_table.json: its mnemonic, `match` and `mask`. -/
structure OpcodeRow where
  mnemonic : String
  value : CommandWord
  mask : CommandWord
deriving DecidableEq, Repr

/-- The opcode table, row by row (R64, R65 and spec/opcode_table.json). -/
def opcodeTable : List OpcodeRow :=
  [⟨"NOP", 0x000000000#36, 0xF00000000#36⟩, ⟨"TC_EVAL", 0x100000000#36, 0xF00000000#36⟩,
   ⟨"CRC_INIT", 0x200000000#36, 0xF00000000#36⟩, ⟨"CRC_BYTE", 0x300000000#36, 0xF00000000#36⟩,
   ⟨"CRC_WORD", 0x400000000#36, 0xF00000000#36⟩, ⟨"CRC_READ", 0x500000000#36, 0xF00000000#36⟩,
   ⟨"CRC_CHECK", 0x600000000#36, 0xF00000000#36⟩, ⟨"CRC_STATE_READ", 0x700000000#36, 0xF00000000#36⟩,
   ⟨"CRC_STATE_WRITE", 0x800000000#36, 0xF00000000#36⟩, ⟨"STATUS_READ", 0x900000000#36, 0xF00000000#36⟩,
   ⟨"STATUS_CLEAR", 0xA00000000#36, 0xF00000000#36⟩, ⟨"RSVD_0xB", 0xB00000000#36, 0xF00000000#36⟩,
   ⟨"RSVD_0xC", 0xC00000000#36, 0xF00000000#36⟩, ⟨"RSVD_0xD", 0xD00000000#36, 0xF00000000#36⟩,
   ⟨"RSVD_0xE", 0xE00000000#36, 0xF00000000#36⟩, ⟨"RSVD_0xF", 0xF00000000#36, 0xF00000000#36⟩]

/-- A command word belongs to a row when it agrees with the row's `match` under its `mask` (R65). -/
def OpcodeRow.accepts (r : OpcodeRow) (w : CommandWord) : Bool := decide (w &&& r.mask = r.value)

/-- The mnemonic of a command's row in spec/opcode_table.json. -/
def mnemonicOf : Instr → String
  | .nop => "NOP"
  | .tcEval _ => "TC_EVAL"
  | .crcInit => "CRC_INIT"
  | .crcByte _ => "CRC_BYTE"
  | .crcWord _ => "CRC_WORD"
  | .crcRead => "CRC_READ"
  | .crcCheck _ => "CRC_CHECK"
  | .crcStateRead => "CRC_STATE_READ"
  | .crcStateWrite _ => "CRC_STATE_WRITE"
  | .statusRead => "STATUS_READ"
  | .statusClear => "STATUS_CLEAR"
  | .rsvd0xB => "RSVD_0xB"
  | .rsvd0xC => "RSVD_0xC"
  | .rsvd0xD => "RSVD_0xD"
  | .rsvd0xE => "RSVD_0xE"
  | .rsvd0xF => "RSVD_0xF"

/-- Why a number of bits is no command word. -/
inductive DecodeError where
  /-- A bit above bit 35 is set: a command word has 36 bits (R60). Nothing the host can put on the port raises it
  (the port carries exactly 36 bits), so it is safe. -/
  | widerThanCommand
deriving DecidableEq, Repr

/-- The command word whose bits are the low `nbits` bits of `w`, bit 0 being `arg[0]` and bit 35 `cmd[3]` (R60);
rejected by name where a bit above bit 35 is set. -/
def wordOfBits (nbits w : Nat) : Except DecodeError CommandWord :=
  if w % 2 ^ nbits < 2 ^ 36 then .ok (BitVec.ofNat 36 (w % 2 ^ nbits)) else .error .widerThanCommand

/-- The command the decoder reads from the bits `w`, numbered as spec/opcode_table.json numbers them. -/
def decodeTableWord (nbits w : Nat) : Option Instr :=
  match wordOfBits nbits w with
  | .ok cw => some (decode cw)
  | .error _ => none

end Sys2Proof
end

