-- ==== Sys2Proof/Config.lean ====
section
/-! DEFINITION. What the spec leaves open: the open parameter and the free values. None has a body, so no
statement can rest on a value of one (93_implementation_defined.md U1 to U3). -/

namespace Sys2Proof.Config

/-- The CRC register after the `n`-th draw of a power-on state (10_state.md R30, U1): any value. -/
opaque powerOnCrc : Nat → Word

/-- STATUS.MATCH after the `n`-th draw of a power-on state (10_state.md R30, U1): either value. -/
opaque powerOnMatch : Nat → Bool

/-- STATUS.ILLEGAL after the `n`-th draw of a power-on state (10_state.md R30, U1): either value. -/
opaque powerOnIllegal : Nat → Bool

/-- Whether, at the `n`-th draw, the host still receives the response of a command that a reset overtakes
(70_reset_and_hazards.md R162, U2): either outcome. -/
opaque overtakenDelivered : Nat → Bool

/-- How many cycles beyond the first the `n`-th accepted command takes: no upper bound is known (R168). -/
opaque extraCycles : Nat → Nat

/-- `CMD_LATENCY` of the `n`-th accepted command (00_scope.md R7, U3): a positive number of cycles and nothing
more. The model is transaction-level, so no other definition reads it. -/
def cmdLatency (n : Nat) : Nat :=
  extraCycles n + 1

end Sys2Proof.Config
end

