-- ==== Sys2Proof/Machine/CrcFunction.lean ====
section
/-! DEFINITION. The CRC-32 function (41_crc.md R100 to R106), bit-serial as R101 writes it. -/

namespace Sys2Proof.Machine

/-- The polynomial in reflected form (R5, R100). -/
def crcPoly : Word := 0xEDB88320#32

/-- The initial value of the register (R5, R100). -/
def crcSeed : Word := 0xFFFFFFFF#32

/-- The final XOR, "inverted output" (R5, R100). -/
def crcFinalXor : Word := 0xFFFFFFFF#32

/-- One iteration of R101: test bit 0, shift right, XOR the polynomial in where the bit was 1. -/
def crcBitStep (c : Word) : Word :=
  if c.getLsbD 0 then (c >>> 1) ^^^ crcPoly else c >>> 1

/-- `n` iterations of R101. -/
def crcBitSteps : Nat → Word → Word
  | 0, c => c
  | n + 1, c => crcBitSteps n (crcBitStep c)

/-- `crc_byte(c, d)` (R101): the byte enters the low 8 bits, then 8 iterations. -/
def crcByte (c : Word) (d : Byte) : Word := crcBitSteps 8 (c ^^^ d.setWidth 32)

/-- `crc_fold(c, M)` (R102): the bytes of `M`, first byte first. -/
def crcFold : Word → List Byte → Word
  | c, [] => c
  | c, d :: m => crcFold (crcByte c d) m

/-- The final CRC of a register value (R103, R110). -/
def crcFinal (c : Word) : Word := c ^^^ crcFinalXor

/-- `CRC32(M)` (R103). -/
def crc32 (m : List Byte) : Word := crcFinal (crcFold crcSeed m)

/-- The checksum of a chunk of type bytes `t` and payload `d`, `CRC32(T ++ D)` (R104). -/
def chunkChecksum (t d : List Byte) : Word := crc32 (t ++ d)

/-- The four byte steps of CRC_WORD, `arg[31:24]` first (R109). -/
def crcWord (c : Word) (arg : Word) : Word :=
  crcByte (crcByte (crcByte (crcByte c (byte1 arg)) (byte2 arg)) (byte3 arg)) (byte4 arg)

/-- Entry `i` of the byte-wide table an implementation may use, `T[i] = crc_byte(0, i)` (R106). -/
def crcTable (i : Byte) : Word := crcByte 0#32 i

end Sys2Proof.Machine
end

