-- ==== Sys2Proof/Machine/State.lean ====
section
/-! DEFINITION. The state of the machine, the reasons a step can stop, and the state after reset. -/

namespace Sys2Proof.Machine

/-- The architectural state of the block: exactly the triple of 10_state.md R20. STATUS bits 31:2 are hardwired
to 0 and are not stored (R26); the STATUS word is `Block.statusWord`. -/
structure Block where
  /-- The running CRC remainder, before the final inversion (R22). -/
  crc : Word
  /-- STATUS bit 0: the result of the last CRC_CHECK (R24). -/
  statusMatch : Bool
  /-- STATUS bit 1, sticky: a reserved command has been performed (R25). -/
  statusIllegal : Bool
deriving DecidableEq, Repr

/-- What reaches the block from outside, one event for each thing the host can do (20_memory.md R56). -/
inductive HostEvent where
  /-- A command word on the port (R12, R60). -/
  | command (w : CommandWord)
  /-- A reset event (70_reset_and_hazards.md R160). -/
  | reset
  /-- A command whose response a reset overtakes (R162): the command step and the reset step together. -/
  | overtakenCommand (w : CommandWord)
  /-- Power removed and applied again (60_exceptions.md R153, 10_state.md R30). -/
  | powerCycle
deriving DecidableEq, Repr

/-- The block and the host's side of its port. DESIGN CHOICE (log 1): R20 has a step's inputs and outputs outside
the state; the fixed form of `step` has neither, so the model holds them beside the block. -/
structure State where
  /-- The architectural state. -/
  block : Block
  /-- The events the host has still to present, oldest first (R51). -/
  pending : List HostEvent
  /-- The response of the last step, absent where that step gave none (R11, R160). -/
  rsp : Option Word
  /-- The model's own counter of free values drawn (log 5). -/
  draws : Nat
deriving DecidableEq, Repr

/-- Faults: none, and so no constructor. The block never traps or faults (60_exceptions.md R140). -/
inductive Fault
deriving DecidableEq, Repr

/-- Refusals. The block never refuses (60_exceptions.md R140), so nothing in the model raises one. -/
inductive Refusal where
  /-- Raised only by an arm of `exec` that has no meaning yet: by none. It would be safe. -/
  | notModelled (mnemonic : String)
deriving DecidableEq, Repr

/-- The block after a reset event (10_state.md R29, 70_reset_and_hazards.md R161). -/
def Block.reset : Block := { crc := 0xFFFFFFFF#32, statusMatch := false, statusIllegal := false }

/-- The machine right after reset: the block as R29 has it, no event presented yet, no response (R160). -/
def State.reset : State := { block := Block.reset, pending := [], rsp := none, draws := 0 }

end Sys2Proof.Machine
end

