-- ==== Sys2Proof/Machine/Flags.lean ====
section
/-! DEFINITION. Every flag computation: the TypeCode predicates and their response word (40_typecode.md R80 to R88),
the CRC_CHECK comparison (41_crc.md R111) and the STATUS word (10_state.md R23, 42_control.md R131). -/

namespace Sys2Proof.Machine

/-- `alpha(b)` (R80): an ASCII letter, all 8 bits tested. -/
def alpha (b : Byte) : Bool :=
  (decide (0x41#8 ≤ b) && decide (b ≤ 0x5A#8)) || (decide (0x61#8 ≤ b) && decide (b ≤ 0x7A#8))

/-- `WF(w)` (R81): all four bytes are alphabetic. -/
def wellFormedCode (w : Word) : Bool := alpha (byte1 w) && alpha (byte2 w) && alpha (byte3 w) && alpha (byte4 w)

/-- The flag bit `b[5]` of a byte, the bit of weight 0x20 (R8, R82). -/
def flagBit (b : Byte) : Bool := b.getLsbD 5

/-- `CRITICAL(w)` (R83): bit clear on byte 1. -/
def critical (w : Word) : Bool := !flagBit (byte1 w)

/-- `PUBLIC(w)` (R84): bit clear on byte 2. -/
def publicFlag (w : Word) : Bool := !flagBit (byte2 w)

/-- `RSV_OK(w)` (R85): bit clear on byte 3. -/
def reservedOk (w : Word) : Bool := !flagBit (byte3 w)

/-- `SAFE(w)` (R86): bit SET on byte 4. -/
def safeToCopy (w : Word) : Bool := flagBit (byte4 w)

/-- `VALID(w)` (R87): well-formed and reserved-bit-valid. -/
def validCode (w : Word) : Bool := wellFormedCode w && reservedOk w

/-- A 1-bit value of the pseudocode (R10). -/
def bit (b : Bool) : BitVec 1 := BitVec.ofBool b

/-- The response of TC_EVAL (R88): ALPHA4 to ALPHA1 in bits 11:8, zeros in 7:6, then VALID, SAFE, RSV_OK, PUBLIC,
CRITICAL and WF in bits 5 to 0. -/
def flagWord (w : Word) : Word :=
  (bit (alpha (byte4 w)) ++ bit (alpha (byte3 w)) ++ bit (alpha (byte2 w)) ++ bit (alpha (byte1 w)) ++ 0#2 ++
    bit (validCode w) ++ bit (safeToCopy w) ++ bit (reservedOk w) ++ bit (publicFlag w) ++ bit (critical w) ++
    bit (wellFormedCode w)).setWidth 32

/-- The comparison of CRC_CHECK (R111): the FINAL CRC against the stored checksum. -/
def checksumMatches (crc checksum : Word) : Bool := crcFinal crc == checksum

/-- The STATUS word (R23, R131): MATCH in bit 0, ILLEGAL in bit 1, zeros above (R26). -/
def Block.statusWord (b : Block) : Word := (bit b.statusIllegal ++ bit b.statusMatch).setWidth 32

end Sys2Proof.Machine
end

