-- ==== Sys2Proof/Machine/Ops.lean ====
section
/-! DEFINITION. The named operations on the state: writes of the block's three registers, giving a response, taking
an event off the port, reset and power. There is no memory (20_memory.md R40), and there is no exception to take or
to return from (60_exceptions.md R146, R147). -/

namespace Sys2Proof.Machine

/-- What one step of the machine answers. -/
abbrev Result := Host.Outcome State Fault Refusal

/-- `crc <- v` (R11). -/
def State.writeCrc (s : State) (v : Word) : State := { s with block := { s.block with crc := v } }

/-- `STATUS.MATCH <- b` (R11). -/
def State.writeMatch (s : State) (b : Bool) : State := { s with block := { s.block with statusMatch := b } }

/-- `STATUS.ILLEGAL <- b` (R11). -/
def State.writeIllegal (s : State) (b : Bool) : State := { s with block := { s.block with statusIllegal := b } }

/-- `rsp <- v` (R11), which completes a command (60_exceptions.md R140). -/
def State.respond (s : State) (v : Word) : Result := .next { s with rsp := some v }

/-- The reserved command (42_control.md R133), shared by the five values: the illegal-command condition is recorded
in STATUS.ILLEGAL and nowhere else. -/
def State.recordIllegal (s : State) : Result := (s.writeIllegal true).respond 0#32

/-- A reset event (70_reset_and_hazards.md R160, R161): every element of the block takes its reset value, and there
is no response. -/
def State.resetBlock (s : State) : State := { s with block := Block.reset, rsp := none }

/-- A command overtaken by a reset (R162), given the machine after the command: the block is reset either way; the
command's response reaches the host or not as a free value says (U2). -/
def State.overtake (s : State) : State :=
  { s with
    block := Block.reset
    rsp := if Config.overtakenDelivered s.draws then s.rsp else none
    draws := s.draws + 1 }

/-- Power removed and applied again (60_exceptions.md R153): each element of the block holds a free value
(10_state.md R30, U1), and there is no response. -/
def State.losePower (s : State) : State :=
  { s with
    block :=
      { crc := Config.powerOnCrc s.draws
        statusMatch := Config.powerOnMatch s.draws
        statusIllegal := Config.powerOnIllegal s.draws }
    rsp := none
    draws := s.draws + 1 }

/-- The host presents a command ahead of every event still pending. -/
def State.present (s : State) (w : CommandWord) : State := { s with pending := .command w :: s.pending }

/-- Go on from a next state; a fault or a refusal stays. -/
def Result.andThen (r : Result) (f : State → Result) : Result :=
  match r with
  | .next s => f s
  | .fault r => .fault r
  | .refused r => .refused r

end Sys2Proof.Machine
end

