-- ==== Sys2Proof/Machine/Control.lean ====
section
/-! DEFINITION. The control and status family, and the reserved commands (42_control.md R130 to R133). -/

namespace Sys2Proof.Machine

/-- NOP (R130). -/
def execNop (s : State) : Result := s.respond 0#32

/-- STATUS_READ (R131): the read clears nothing. -/
def execStatusRead (s : State) : Result := s.respond s.block.statusWord

/-- STATUS_CLEAR (R132). -/
def execStatusClear (s : State) : Result := ((s.writeMatch false).writeIllegal false).respond 0#32

/-- The reserved command 0xB (R133). -/
def execRsvd0xB (s : State) : Result := s.recordIllegal

/-- The reserved command 0xC (R133). -/
def execRsvd0xC (s : State) : Result := s.recordIllegal

/-- The reserved command 0xD (R133). -/
def execRsvd0xD (s : State) : Result := s.recordIllegal

/-- The reserved command 0xE (R133). -/
def execRsvd0xE (s : State) : Result := s.recordIllegal

/-- The reserved command 0xF (R133). -/
def execRsvd0xF (s : State) : Result := s.recordIllegal

end Sys2Proof.Machine
end

