-- ==== Sys2Proof/Machine/Crc.lean ====
section
/-! DEFINITION. The CRC family (41_crc.md R107 to R113). -/

namespace Sys2Proof.Machine

/-- CRC_INIT (R107). -/
def execCrcInit (s : State) : Result := (s.writeCrc crcSeed).respond 0#32

/-- CRC_BYTE (R108). -/
def execCrcByte (d : Byte) (s : State) : Result := (s.writeCrc (crcByte s.block.crc d)).respond 0#32

/-- CRC_WORD (R109). -/
def execCrcWord (arg : Word) (s : State) : Result := (s.writeCrc (crcWord s.block.crc arg)).respond 0#32

/-- CRC_READ (R110): the final CRC, not destructive. -/
def execCrcRead (s : State) : Result := s.respond (crcFinal s.block.crc)

/-- CRC_CHECK (R111): the comparison goes to STATUS.MATCH and, zero extended, to the response. -/
def execCrcCheck (checksum : Word) (s : State) : Result :=
  let m := checksumMatches s.block.crc checksum
  (s.writeMatch m).respond ((bit m).setWidth 32)

/-- CRC_STATE_READ (R112): the raw register. -/
def execCrcStateRead (s : State) : Result := s.respond s.block.crc

/-- CRC_STATE_WRITE (R113). -/
def execCrcStateWrite (v : Word) (s : State) : Result := (s.writeCrc v).respond 0#32

end Sys2Proof.Machine
end

