-- ==== Sys2Proof/Machine/TypeCode.lean ====
section
/-! DEFINITION. The TypeCode family: TC_EVAL (40_typecode.md R88). -/

namespace Sys2Proof.Machine

/-- TC_EVAL (R88): the flag word of `arg`; no state is read or written (10_state.md R27). -/
def execTcEval (arg : Word) (s : State) : Result := s.respond (flagWord arg)

end Sys2Proof.Machine
end

