-- ==== Sys2Proof/Machine/Dispatch.lean ====
section
/-! DEFINITION. The performance of one command (00_scope.md R12): one arm per constructor of Instr. -/

namespace Sys2Proof.Machine

def exec (i : Instr) (s : State) : Host.Outcome State Fault Refusal :=
  match i with
  | .nop => Sys2Proof.Machine.execNop s
  | .tcEval arg => Sys2Proof.Machine.execTcEval arg s
  | .crcInit => Sys2Proof.Machine.execCrcInit s
  | .crcByte d => Sys2Proof.Machine.execCrcByte d s
  | .crcWord arg => Sys2Proof.Machine.execCrcWord arg s
  | .crcRead => Sys2Proof.Machine.execCrcRead s
  | .crcCheck checksum => Sys2Proof.Machine.execCrcCheck checksum s
  | .crcStateRead => Sys2Proof.Machine.execCrcStateRead s
  | .crcStateWrite state => Sys2Proof.Machine.execCrcStateWrite state s
  | .statusRead => Sys2Proof.Machine.execStatusRead s
  | .statusClear => Sys2Proof.Machine.execStatusClear s
  | .rsvd0xB => Sys2Proof.Machine.execRsvd0xB s
  | .rsvd0xC => Sys2Proof.Machine.execRsvd0xC s
  | .rsvd0xD => Sys2Proof.Machine.execRsvd0xD s
  | .rsvd0xE => Sys2Proof.Machine.execRsvd0xE s
  | .rsvd0xF => Sys2Proof.Machine.execRsvd0xF s

end Sys2Proof.Machine
end

