-- ==== Sys2Proof/Machine/HostEvents.lean ====
section
/-! DEFINITION. One event of the host, and events in the order the host issues them (00_scope.md R12,
20_memory.md R51). -/

namespace Sys2Proof.Machine

/-- The effect of one host event on a machine whose port it has left. -/
def performEvent (e : HostEvent) (s : State) : Result :=
  match e with
  | .command w => exec (decode w) s
  | .reset => .next s.resetBlock
  | .overtakenCommand w => Result.andThen (exec (decode w) s) fun t => .next t.overtake
  | .powerCycle => .next s.losePower

/-- One step of the machine: take the oldest pending event and perform it. With none pending the block takes no step
of its own (R12) and holds its state. DESIGN CHOICE (log 2). -/
def takeEvent (s : State) : Result :=
  match s.pending with
  | [] => .next s
  | e :: rest => performEvent e { s with pending := rest }

/-- Events performed one after another, each seeing all effects of those before it (R51). -/
def performAll : List HostEvent → State → Result
  | [], s => .next s
  | e :: es, s => Result.andThen (performEvent e s) fun t => performAll es t

/-- The event by which the host issues a command in its canonical encoding (R63). -/
def issue (i : Instr) : HostEvent := .command (encode i)

end Sys2Proof.Machine
end

