-- ==== Sys2Proof/Machine/Step.lean ====
section
/-! DEFINITION. The step of the machine. -/

namespace Sys2Proof.Machine

/-- One step: the oldest pending event of the host (00_scope.md R12, 20_memory.md R51). -/
def step (s : State) : Host.Outcome State Fault Refusal := takeEvent s

/-- The block fetches nothing (20_memory.md R53): the next command is the next one the host presents. The bits are
presented on the port, ahead of any other event; bits that are no command word leave the port as it is. -/
def State.withFetchWord (s : State) (nbits w : Nat) : State :=
  match wordOfBits nbits w with
  | .ok cw => s.present cw
  | .error _ => s

end Sys2Proof.Machine
end

