-- ==== Sys2Proof/Machine/Assembler.lean ====
section
/-! DEFINITION. The assembler (30_encoding.md R68 to R70): its literals, its syntax and its pseudo-instructions.
It is the host's notation and no part of a step. -/

namespace Sys2Proof.Machine

/-- Why a line is no command: an assembly error, not an encoding (R69). Each is raised by `assembleLine` alone, which
no step calls, so each is safe. -/
inductive AsmError where
  /-- The first word is no mnemonic of R64 or R70 in upper case. -/
  | unknownMnemonic
  /-- The operand is missing, or is no literal of R69. -/
  | badLiteral
  /-- A kind of literal the command does not take, or a type string without exactly four characters. -/
  | wrongLiteral
  /-- A number that does not fit the operand (R69). -/
  | valueDoesNotFit
  /-- `RSVD n` with `n` outside 0xB to 0xF (R68). -/
  | notReserved
  /-- A string without its closing quote. -/
  | unterminatedString
  /-- A backslash not followed by `x` and two hexadecimal digits (R70). -/
  | badEscape
  /-- A character without an ASCII code (R69, R70). -/
  | notAscii
  /-- Text after the command that is no comment (R68). -/
  | trailingText
deriving DecidableEq, Repr

/-- An operand literal (R69). -/
inductive Literal where
  | number (n : Nat)
  | character (c : Byte)
  | string (bytes : List Byte)
deriving DecidableEq, Repr

/-- `"` -/
def doubleQuote : Char := Char.ofNat 0x22

/-- `'` -/
def singleQuote : Char := Char.ofNat 0x27

/-- `\` -/
def backslash : Char := Char.ofNat 0x5C

def isBlank (c : Char) : Bool := c == ' ' || c == '\t' || c == '\r'

def skipBlanks (text : List Char) : List Char := text.dropWhile isBlank

/-- A character's ASCII code (R69). -/
def asciiCode (c : Char) : Except AsmError Byte :=
  if c.toNat < 0x80 then .ok (BitVec.ofNat 8 c.toNat) else .error .notAscii

/-- The value of a digit of base 10 or 16. -/
def digitValue? (base : Nat) (c : Char) : Option Nat :=
  let v :=
    if '0' ≤ c ∧ c ≤ '9' then c.toNat - 0x30
    else if 'A' ≤ c ∧ c ≤ 'F' then c.toNat - 0x41 + 10
    else if 'a' ≤ c ∧ c ≤ 'f' then c.toNat - 0x61 + 10
    else base
  if v < base then some v else none

/-- The digits at the front of the text, as a number after `acc`, and what follows them. -/
def readDigits (base acc : Nat) : List Char → Nat × List Char
  | [] => (acc, [])
  | c :: rest =>
    match digitValue? base c with
    | some v => readDigits base (base * acc + v) rest
    | none => (acc, c :: rest)

/-- A number of at least one digit. -/
def readNumber (base : Nat) (text : List Char) : Except AsmError (Literal × List Char) :=
  if (text.head?.bind (digitValue? base)).isSome then
    .ok (.number (readDigits base 0 text).1, (readDigits base 0 text).2)
  else .error .badLiteral

/-- Where the reading of a string stands: outside an escape, or after a backslash, its `x`, or its first digit. -/
inductive StringPlace where
  | plain
  | afterBackslash
  | afterX
  | afterDigit (v : Nat)
deriving DecidableEq, Repr

/-- Put one more byte at the front of a string that has been read. -/
def consByte (b : Byte) : Except AsmError (List Byte × List Char) → Except AsmError (List Byte × List Char)
  | .ok (bytes, rest) => .ok (b :: bytes, rest)
  | .error e => .error e

/-- The bytes of a string up to its closing quote, and what follows it: each character stands for its ASCII code, an
escape `\xHH` for the byte 0xHH (R70). -/
def readString (place : StringPlace) : List Char → Except AsmError (List Byte × List Char)
  | [] => .error .unterminatedString
  | c :: rest =>
    match place with
    | .plain =>
      if c = doubleQuote then .ok ([], rest)
      else if c = backslash then readString .afterBackslash rest
      else
        match asciiCode c with
        | .ok b => consByte b (readString .plain rest)
        | .error e => .error e
    | .afterBackslash => if c = 'x' then readString .afterX rest else .error .badEscape
    | .afterX =>
      match digitValue? 16 c with
      | some v => readString (.afterDigit v) rest
      | none => .error .badEscape
    | .afterDigit v =>
      match digitValue? 16 c with
      | some v' => consByte (BitVec.ofNat 8 (16 * v + v')) (readString .plain rest)
      | none => .error .badEscape

/-- The literal at the front of the text (R69), and what follows it. -/
def readLiteral (text : List Char) : Except AsmError (Literal × List Char) :=
  match text with
  | '0' :: 'x' :: rest => readNumber 16 rest
  | c :: rest =>
    if c = doubleQuote then (readString .plain rest).map fun p => (.string p.1, p.2)
    else if c = singleQuote then
      match rest with
      | d :: q :: rest' =>
        if q = singleQuote then (asciiCode d).map fun b => (.character b, rest') else .error .badLiteral
      | _ => .error .badLiteral
    else readNumber 10 text
  | [] => .error .badLiteral

/-- Nothing but blanks and a comment is left of the line (R68). -/
def endOfLine (text : List Char) : Except AsmError Unit :=
  match skipBlanks text with
  | [] => .ok ()
  | c :: _ => if c = ';' then .ok () else .error .trailingText

/-- The `arg` a literal gives for an operand form (R69). -/
def operandValue (form : OperandForm) : Literal → Except AsmError Word
  | .number n => if operandFits form (some n) then .ok (BitVec.ofNat 32 n) else .error .valueDoesNotFit
  | .character c => if form = .byte then .ok (c.setWidth 32) else .error .wrongLiteral
  | .string [c0, c1, c2, c3] =>
    if form = .typecode ∨ form = .bytes4 then .ok (packBE c0 c1 c2 c3) else .error .wrongLiteral
  | .string _ => .error .wrongLiteral

/-- The reserved command of a `cmd` value (R68). -/
def reservedCommand : Literal → Except AsmError Instr
  | .number 0xB => .ok .rsvd0xB
  | .number 0xC => .ok .rsvd0xC
  | .number 0xD => .ok .rsvd0xD
  | .number 0xE => .ok .rsvd0xE
  | .number 0xF => .ok .rsvd0xF
  | .number _ => .error .notReserved
  | .character _ | .string _ => .error .wrongLiteral

/-- `CRC_STR` (R70): CRC_WORD for each complete group of four bytes, then CRC_BYTE for each byte left over. -/
def expandStr : List Byte → List Instr
  | c0 :: c1 :: c2 :: c3 :: rest => .crcWord (packBE c0 c1 c2 c3) :: expandStr rest
  | rest => rest.map .crcByte

/-- `CRC_CHUNK` (R70): CRC_INIT, CRC_WORD of the type code, CRC_STR of the data. -/
def expandChunk (typeCode : Word) (data : List Byte) : List Instr :=
  .crcInit :: .crcWord typeCode :: expandStr data

/-- The mnemonics that take no operand (R64, R68). -/
def plainMnemonics : List (String × Instr) :=
  [("NOP", .nop), ("CRC_INIT", .crcInit), ("CRC_READ", .crcRead), ("CRC_STATE_READ", .crcStateRead),
   ("STATUS_READ", .statusRead), ("STATUS_CLEAR", .statusClear)]

/-- The mnemonics that take one operand, with its form (R64, R68). -/
def operandMnemonics : List (String × OperandForm × (Word → Instr)) :=
  [("TC_EVAL", .typecode, .tcEval), ("CRC_BYTE", .byte, fun w => .crcByte (byte4 w)), ("CRC_WORD", .bytes4, .crcWord),
   ("CRC_CHECK", .checksum, .crcCheck), ("CRC_STATE_WRITE", .state, .crcStateWrite)]

/-- The second string of `CRC_CHUNK "tttt", "s"`, after the first (R70). -/
def readChunkData (typeCode : Literal) (text : List Char) : Except AsmError (List Instr × List Char) :=
  match typeCode, skipBlanks text with
  | .string [c0, c1, c2, c3], ',' :: rest =>
    match readLiteral (skipBlanks rest) with
    | .ok (.string data, rest') => .ok (expandChunk (packBE c0 c1 c2 c3) data, rest')
    | .ok _ => .error .wrongLiteral
    | .error e => .error e
  | .string [_, _, _, _], _ => .error .badLiteral
  | _, _ => .error .wrongLiteral

/-- The commands of a mnemonic with the text after it, and what follows them on the line. -/
def readCommand (mnemonic text : List Char) : Except AsmError (List Instr × List Char) :=
  match plainMnemonics.find? fun m => m.1.toList == mnemonic with
  | some m => .ok ([m.2], text)
  | none =>
    match operandMnemonics.find? (fun m => m.1.toList == mnemonic), readLiteral (skipBlanks text) with
    | some m, .ok (lit, rest) => (operandValue m.2.1 lit).map fun w => ([m.2.2 w], rest)
    | some _, .error e => .error e
    | none, lit? =>
      if mnemonic = "RSVD".toList then
        lit?.bind fun p => (reservedCommand p.1).map fun i => ([i], p.2)
      else if mnemonic = "CRC_STR".toList then
        lit?.bind fun p =>
          match p.1 with
          | .string data => .ok (expandStr data, p.2)
          | .number _ | .character _ => .error .wrongLiteral
      else if mnemonic = "CRC_CHUNK".toList then
        lit?.bind fun p => readChunkData p.1 p.2
      else .error .unknownMnemonic

/-- One line of assembler text (R68): a command, or nothing but a comment. -/
def assembleLine (line : List Char) : Except AsmError (List Instr) :=
  let text := skipBlanks line
  let mnemonic := text.takeWhile fun c => !isBlank c && c != ';'
  if mnemonic = [] then (endOfLine text).map fun _ => []
  else
    (readCommand mnemonic (text.drop mnemonic.length)).bind fun p =>
      (endOfLine p.2).map fun _ => p.1

/-- Assembler text, one command a line, to command words in canonical encoding (R63, R68). -/
def assemble (text : List Char) : Except AsmError (List CommandWord) :=
  (((text.splitOn '\n').mapM assembleLine).map List.flatten).map fun is => is.map encode

end Sys2Proof.Machine
end

