-- ==== Sys2Proof/Machine/Conditions.lean ====
section
/-! DEFINITION. The conditions the block reports in band (60_exceptions.md R141 to R145) and the host's reading of a
TC_EVAL response (40_typecode.md R89). No register holds any of it: it is computed from the command and the block. -/

namespace Sys2Proof.Machine

/-- The condition ids of R141. -/
inductive Condition where
  | illegalCmd
  | crcMismatch
  | tcNotWf
  | tcNotValid
deriving DecidableEq, Repr

/-- The conditions a command raises (R141), the more specific first (R145). -/
def conditionsOf (i : Instr) (b : Block) : List Condition :=
  match i with
  | .rsvd0xB | .rsvd0xC | .rsvd0xD | .rsvd0xE | .rsvd0xF => [.illegalCmd]
  | .crcCheck checksum => if checksumMatches b.crc checksum then [] else [.crcMismatch]
  | .tcEval arg =>
    (if wellFormedCode arg then [] else [.tcNotWf]) ++ (if validCode arg then [] else [.tcNotValid])
  | .nop | .crcInit | .crcByte _ | .crcWord _ | .crcRead | .crcStateRead | .crcStateWrite _ => []
  | .statusRead | .statusClear => []

/-- What a model reporting a single condition reports (R145). -/
def reportedCondition (i : Instr) (b : Block) : Option Condition := (conditionsOf i b).head?

/-- The document's error kinds (R142). -/
inductive ErrorKind where
  | invalidLength
  | invalidTypeCode
  | unexpectedEof
  | invalidSignature
  | checksumMismatch
  | chunkNotFound
  | invalidPayloadEncoding
deriving DecidableEq, Repr

/-- The block's form of an error kind; the others are software's (R142). -/
def ErrorKind.blockForm : ErrorKind → Option Condition
  | .invalidTypeCode => some .tcNotWf
  | .checksumMismatch => some .crcMismatch
  | .invalidLength | .unexpectedEof | .invalidSignature | .chunkNotFound | .invalidPayloadEncoding => none

/-- How a host reads a TC_EVAL response in the document's terms (R89). -/
inductive TypeCodeReading where
  /-- WF = 0: `InvalidTypeCode`; the flag bits describe no TypeCode. -/
  | invalidTypeCode
  /-- WF = 1, VALID = 0: accepted syntactically, rejected as a chunk type. -/
  | notAValidChunkType
  /-- WF = 1, VALID = 1. -/
  | valid
deriving DecidableEq, Repr

/-- The host's reading of a response word (R89): WF in bit 0, VALID in bit 5. -/
def readTypeCode (rsp : Word) : TypeCodeReading :=
  if rsp.getLsbD 0 then (if rsp.getLsbD 5 then .valid else .notAValidChunkType) else .invalidTypeCode

end Sys2Proof.Machine
end

