-- ==== Sys2Proof/Safety.lean ====
section
/-! DEFINITION. The terms the statements use: completing, the host's duties, what a command feeds to the CRC. -/

namespace Sys2Proof.Machine

/-- A result is a next state: neither a fault nor a refusal (60_exceptions.md R140). -/
def Completes (r : Result) : Prop := ∃ t, r = .next t

/-- The next state of a completed command (R140): the block `b`, the response `v`, and all else as it was. -/
def completed (s : State) (b : Block) (v : Word) : Result := .next { s with block := b, rsp := some v }

/-- `n` steps of the machine. -/
def steps : Nat → State → Result
  | 0, s => .next s
  | n + 1, s => Result.andThen (step s) fun t => steps n t

/-- The bytes a command feeds to the CRC, in the order it feeds them (R108, R109). -/
def fedBytes : Instr → List Byte
  | .crcByte d => [d]
  | .crcWord arg => wireBytes arg
  | .nop | .crcInit | .crcRead | .crcStateRead | .statusRead | .statusClear => []
  | .tcEval _ | .crcCheck _ | .crcStateWrite _ => []
  | .rsvd0xB | .rsvd0xC | .rsvd0xD | .rsvd0xE | .rsvd0xF => []

/-- The commands that set `crc` to a value of their own: CRC_INIT and CRC_STATE_WRITE (R22). -/
def setsCrc : Instr → Bool
  | .crcInit | .crcStateWrite _ => true
  | .nop | .crcRead | .crcStateRead | .statusRead | .statusClear => false
  | .tcEval _ | .crcByte _ | .crcWord _ | .crcCheck _ => false
  | .rsvd0xB | .rsvd0xC | .rsvd0xD | .rsvd0xE | .rsvd0xF => false

/-- The commands that write STATUS.MATCH: CRC_CHECK and STATUS_CLEAR (R23). -/
def writesMatch : Instr → Bool
  | .crcCheck _ | .statusClear => true
  | .nop | .crcInit | .crcRead | .crcStateRead | .statusRead => false
  | .tcEval _ | .crcByte _ | .crcWord _ | .crcStateWrite _ => false
  | .rsvd0xB | .rsvd0xC | .rsvd0xD | .rsvd0xE | .rsvd0xF => false

/-- The commands that write no state (R50). -/
def writesNothing : Instr → Bool
  | .nop | .tcEval _ | .crcRead | .crcStateRead | .statusRead => true
  | .crcInit | .crcByte _ | .crcWord _ | .crcCheck _ | .crcStateWrite _ | .statusClear => false
  | .rsvd0xB | .rsvd0xC | .rsvd0xD | .rsvd0xE | .rsvd0xF => false

/-- An event after which STATUS.MATCH still describes the last check: a command that does not write it (R24). -/
def keepsMatch : HostEvent → Bool
  | .command w => !writesMatch (decode w)
  | .reset | .overtakenCommand _ | .powerCycle => false

/-- An event that cannot set STATUS.ILLEGAL: a command that is not reserved, or a reset of either kind. -/
def cannotSetIllegal : HostEvent → Bool
  | .command w => !(decode w).isReserved
  | .reset | .overtakenCommand _ => true
  | .powerCycle => false

/-- An event that cannot clear STATUS.ILLEGAL: any command but STATUS_CLEAR. -/
def cannotClearIllegal : HostEvent → Bool
  | .command w => !decide (decode w = .statusClear)
  | .reset | .overtakenCommand _ | .powerCycle => false

/-- The audit invariant of a host (70_reset_and_hazards.md R166): STATUS.ILLEGAL is clear and nothing the host
still presents can set it. -/
def AuditClean (s : State) : Prop := s.block.statusIllegal = false ∧ ∀ e ∈ s.pending, cannotSetIllegal e = true

/-- The sticky invariant (10_state.md R25): STATUS.ILLEGAL is set and nothing the host still presents clears it. -/
def IllegalStuck (s : State) : Prop := s.block.statusIllegal = true ∧ ∀ e ∈ s.pending, cannotClearIllegal e = true

/-- The host's boot duty (70_reset_and_hazards.md R164): every power-on is followed at once by a reset. -/
def bootDuty : List HostEvent → Bool
  | [] => true
  | .powerCycle :: .reset :: es => bootDuty es
  | .powerCycle :: _ => false
  | _ :: es => bootDuty es

end Sys2Proof.Machine
end

