-- ==== Sys2Proof/Certificates/Slice0/Obligations.lean ====
section
/-! DEFINITION. The statements for the provers. Each docstring names the rules of spec/ it formalises. -/

open Sys2Proof Sys2Proof.Machine

/-! Encoding (30_encoding.md). -/

/-- R60 to R64: decoding the canonical word of a command gives that command, every operand at every value. -/
def Obligations.DecodeOfEncodeIsTheCommand : Prop := ∀ i : Instr, decode (encode i) = i

/-- R62, R63: encoding what a word decodes to gives the word with every ignored `arg` bit cleared, so a canonical
word comes back unchanged. -/
def Obligations.EncodeOfDecodeClearsIgnoredBits : Prop :=
  (∀ w, encode (decode w) = commandWord (cmdOf w) (argOf w &&& (formOf (decode w)).used)) ∧
  (∀ w, isCanonical w = true → encode (decode w) = w)

/-- R63: two words that differ in ignored bits alone decode to one command and so behave identically from every
state; no word of a defined command sets STATUS.ILLEGAL, whatever its ignored bits; the canonical encodings and the
`match` values of the table hold 0 in every ignored bit, and so does every word the assembler writes. -/
def Obligations.IgnoredArgBitsHaveNoEffect : Prop :=
  (∀ w w' s, cmdOf w = cmdOf w' →
    argOf w &&& (formOf (decode w)).used = argOf w' &&& (formOf (decode w)).used →
    decode w = decode w' ∧ exec (decode w) s = exec (decode w') s) ∧
  (∀ w s, (decode w).isReserved = false →
    ∃ t, exec (decode w) s = .next t ∧ (t.block.statusIllegal = true → s.block.statusIllegal = true)) ∧
  (∀ i, isCanonical (encode i) = true) ∧
  (∀ r ∈ opcodeTable, isCanonical r.value = true) ∧
  (∀ text ws, assemble text = .ok ws → ∀ w ∈ ws, isCanonical w = true)

/-- R65: every word lies in exactly one row of the table, the row of the command it decodes to, by `cmd` under mask
0xF_00000000; 11 rows are defined and 5 reserved, and `arg` makes no difference to that. -/
def Obligations.EveryWordDecodesToExactlyOneRow : Prop :=
  (∀ w, ∃ r ∈ opcodeTable, r.accepts w = true ∧ r.mnemonic = mnemonicOf (decode w) ∧
    ∀ r' ∈ opcodeTable, r'.accepts w = true → r' = r) ∧
  (∀ w, opcodeOf (decode w) = cmdOf w ∧ (decode w).isReserved = isReservedCmd (cmdOf w)) ∧
  (∀ r ∈ opcodeTable, r.mask = 0xF00000000#36) ∧
  (opcodeTable.filter fun r => !isReservedCmd (cmdOf r.value)).length = 11 ∧
  (opcodeTable.filter fun r => isReservedCmd (cmdOf r.value)).length = 5

/-- R71: the encoding examples: what the assembler writes for each line, and what each word decodes to. -/
def Obligations.EncodingExamplesAreRead : Prop :=
  (∀ p ∈ [("NOP", 0x000000000), ("TC_EVAL \"RuSt\"", 0x152755374), ("CRC_INIT", 0x200000000),
      ("CRC_BYTE 'a'", 0x300000061), ("CRC_WORD \"IEND\"", 0x449454E44), ("CRC_READ", 0x500000000),
      ("CRC_CHECK 0xAE426082", 0x6AE426082), ("CRC_STATE_READ", 0x700000000),
      ("CRC_STATE_WRITE 0x641C1F5C", 0x8641C1F5C), ("STATUS_READ", 0x900000000), ("STATUS_CLEAR", 0xA00000000),
      ("RSVD 0xF", 0xF00000000)], assemble p.1.toList = .ok [BitVec.ofNat 36 p.2]) ∧
  decode 0x000000000#36 = .nop ∧ decode 0x152755374#36 = .tcEval 0x52755374#32 ∧ decode 0x200000000#36 = .crcInit ∧
  decode 0x300000061#36 = .crcByte 0x61#8 ∧ decode 0x449454E44#36 = .crcWord 0x49454E44#32 ∧ decode 0x500000000#36 = .crcRead ∧
  decode 0x6AE426082#36 = .crcCheck 0xAE426082#32 ∧ decode 0x700000000#36 = .crcStateRead ∧
  decode 0x8641C1F5C#36 = .crcStateWrite 0x641C1F5C#32 ∧ decode 0x900000000#36 = .statusRead ∧
  decode 0xA00000000#36 = .statusClear ∧ decode 0xF00000000#36 = .rsvd0xF ∧ decode 0x3FFFFFF61#36 = .crcByte 0x61#8

/-- R68, R69: the six mnemonics of the form `none` give a command of that form, and no number is its operand; the five
mnemonics with an operand give the command of that name, of the form they read the operand in, carrying the operand's
used bits; a number is an operand exactly when it fits, 8 bits for CRC_BYTE and 32 bits for the other four, by form and
as read after the mnemonic on a line, where one that does not fit is an error. -/
def Obligations.AssemblerAcceptsExactlyFittingNumbers : Prop :=
  (∀ n, operandValue .byte (.number n) = .ok (BitVec.ofNat 32 n) ↔ n < 2 ^ 8) ∧
  (∀ f ∈ [OperandForm.typecode, .bytes4, .checksum, .state],
    ∀ n, operandValue f (.number n) = .ok (BitVec.ofNat 32 n) ↔ n < 2 ^ 32) ∧
  (∀ n w, operandValue .none (.number n) ≠ .ok w) ∧
  (∀ f n, (∃ w, operandValue f (.number n) = .ok w) ↔ ∃ k, f.width? = some k ∧ n < 2 ^ k) ∧
  plainMnemonics.map (fun m => m.1) =
    ["NOP", "CRC_INIT", "CRC_READ", "CRC_STATE_READ", "STATUS_READ", "STATUS_CLEAR"] ∧
  (∀ m ∈ plainMnemonics, mnemonicOf m.2 = m.1 ∧ formOf m.2 = .none) ∧
  operandMnemonics.map (fun m => m.1) = ["TC_EVAL", "CRC_BYTE", "CRC_WORD", "CRC_CHECK", "CRC_STATE_WRITE"] ∧
  (∀ m ∈ operandMnemonics, ∀ w, mnemonicOf (m.2.2 w) = m.1 ∧ formOf (m.2.2 w) = m.2.1 ∧
    operandOf (m.2.2 w) = w &&& m.2.1.used) ∧
  (∀ m ∈ operandMnemonics, ∀ text n rest, readLiteral (skipBlanks text) = .ok (.number n, rest) →
    readCommand m.1.toList text =
      if n < 2 ^ (if m.1 = "CRC_BYTE" then 8 else 32) then .ok ([m.2.2 (BitVec.ofNat 32 n)], rest)
      else .error .valueDoesNotFit)

/-- R70: CRC_STR expands to one CRC_WORD for each complete group of four bytes and then one CRC_BYTE for each byte
left over, together feeding exactly the string's bytes in order; CRC_CHUNK is CRC_INIT, CRC_WORD of the type code and
CRC_STR of the data. -/
def Obligations.PseudoInstructionsFeedTheString : Prop :=
  (∀ bytes, (expandStr bytes).flatMap fedBytes = bytes ∧
    (expandStr bytes).length = bytes.length / 4 + bytes.length % 4 ∧
    (∀ i ∈ (expandStr bytes).take (bytes.length / 4), ∃ arg, i = .crcWord arg) ∧
    (∀ i ∈ (expandStr bytes).drop (bytes.length / 4), ∃ d, i = .crcByte d)) ∧
  (∀ code bytes, expandChunk code bytes = [.crcInit, .crcWord code] ++ expandStr bytes)

/-! The step of the machine (00_scope.md R12, 20_memory.md R49 to R51, 60_exceptions.md R140). -/

/-- R12, R49, R51: when the host's next event is a command word, one step is the performance of the command it
decodes to, the event gone from the port. With no event presented the machine holds its state: the model's choice
(log 2). -/
def Obligations.StepRunsTheDecodedCommand : Prop :=
  (∀ s w rest, s.pending = .command w :: rest → step s = exec (decode w) { s with pending := rest }) ∧
  (∀ s, s.pending = [] → step s = .next s)

/-- R140: every command, defined or reserved, completes with exactly one response and touches nothing of the port;
after it the next command is accepted; no step that takes an event stops. -/
def Obligations.EveryCommandCompletes : Prop :=
  (∀ i s, ∃ b v, exec i s = completed s b v) ∧
  (∀ w w' rest s, s.pending = .command w :: .command w' :: rest →
    ∃ t v, step s = .next t ∧ t.rsp = some v ∧ t.pending = .command w' :: rest ∧
      step t = exec (decode w') { t with pending := rest }) ∧
  (∀ s, s.pending ≠ [] → Completes (step s))

/-- R51: stepping through the events the host presents performs each in the order of issue, each on the state the
ones before it left, and the events after them have no effect yet. -/
def Obligations.StepsFollowTheIssueOrder : Prop :=
  ∀ es rest s, s.pending = es ++ rest →
    ∃ t, steps es.length s = .next t ∧ performAll es { s with pending := rest } = .next t ∧ t.pending = rest ∧
      performAll es { s with pending := [] } = .next { t with pending := [] }

/-- R20, R28: the block's triple and the command decide the response and the next triple: two machines with the same
triple cannot be told apart by any command, whatever else differs. -/
def Obligations.NoHiddenStateReachesTheHost : Prop :=
  ∀ i s s', s.block = s'.block → ∃ b v, exec i s = completed s b v ∧ exec i s' = completed s' b v

/-- R22 to R25: STATUS never reaches the CRC register nor any response but STATUS_READ's. -/
def Obligations.StatusReachesOnlyStatusRead : Prop :=
  ∀ i s s', s.block.crc = s'.block.crc →
    ∃ t t', exec i s = .next t ∧ exec i s' = .next t' ∧ t.block.crc = t'.block.crc ∧
      (i ≠ .statusRead → t.rsp = t'.rsp)

/-- R50: the five reading commands write no state and answer the same when repeated; CRC_INIT, CRC_STATE_WRITE,
CRC_CHECK, STATUS_CLEAR and the reserved commands leave after two in a row what they leave after one; CRC_BYTE and
CRC_WORD do not, from some state, whatever they feed. -/
def Obligations.RepeatingACommand : Prop :=
  (∀ i s, writesNothing i = true →
    ∃ v, exec i s = completed s s.block v ∧ performAll [issue i, issue i] s = completed s s.block v) ∧
  (∀ i s, writesNothing i = false → fedBytes i = [] →
    ∃ b v, exec i s = completed s b v ∧ performAll [issue i, issue i] s = completed s b v) ∧
  (∀ i, fedBytes i ≠ [] →
    ∃ s t t', exec i s = .next t ∧ performAll [issue i, issue i] s = .next t' ∧ t.block ≠ t'.block)

/-! The commands, one rule each. -/

/-- R130. -/
def Obligations.NopAnswersZeroAndChangesNothing : Prop :=
  (∀ arg, decode (commandWord 0x0#4 arg) = .nop) ∧ (∀ s, exec .nop s = completed s s.block 0#32) ∧ decode 0#36 = .nop

/-- R80 to R87: the predicates of a type code, with byte 1 in bits 31:24. -/
def Obligations.TypeCodePredicates : Prop :=
  (∀ b, alpha b = true ↔ (0x41 ≤ b.toNat ∧ b.toNat ≤ 0x5A) ∨ (0x61 ≤ b.toNat ∧ b.toNat ≤ 0x7A)) ∧
  (∀ b, 0x80 ≤ b.toNat → alpha b = false) ∧
  (∀ b, flagBit b = true ↔ b &&& 0x20#8 ≠ 0) ∧
  (∀ b, alpha b = true → (flagBit b = true ↔ 0x61 ≤ b.toNat ∧ b.toNat ≤ 0x7A)) ∧
  (∀ w : Word,
    (wellFormedCode w = true ↔ alpha (w.extractLsb 31 24) = true ∧ alpha (w.extractLsb 23 16) = true ∧
      alpha (w.extractLsb 15 8) = true ∧ alpha (w.extractLsb 7 0) = true) ∧
    critical w = !w.getLsbD 29 ∧ publicFlag w = !w.getLsbD 21 ∧ reservedOk w = !w.getLsbD 13 ∧
    safeToCopy w = w.getLsbD 5 ∧ validCode w = (wellFormedCode w && reservedOk w) ∧
    (wellFormedCode w = true → validCode w = reservedOk w) ∧ (wellFormedCode w = false → validCode w = false))

/-- R88: TC_EVAL answers the flag word and changes nothing; its bits one by one, the corner cases, the example. -/
def Obligations.TcEvalAnswersTheFlagWord : Prop :=
  (∀ arg, decode (commandWord 0x1#4 arg) = .tcEval arg) ∧
  (∀ arg s, ∃ v, exec (.tcEval arg) s = completed s s.block v ∧
    v.getLsbD 0 = wellFormedCode arg ∧ v.getLsbD 1 = critical arg ∧ v.getLsbD 2 = publicFlag arg ∧
    v.getLsbD 3 = reservedOk arg ∧ v.getLsbD 4 = safeToCopy arg ∧ v.getLsbD 5 = validCode arg ∧
    v.getLsbD 6 = false ∧ v.getLsbD 7 = false ∧ v.getLsbD 8 = alpha (byte1 arg) ∧ v.getLsbD 9 = alpha (byte2 arg) ∧
    v.getLsbD 10 = alpha (byte3 arg) ∧ v.getLsbD 11 = alpha (byte4 arg) ∧ (∀ k, 12 ≤ k → v.getLsbD k = false) ∧
    (v.getLsbD 0 = false → v.getLsbD 5 = false)) ∧
  (∀ s, exec (.tcEval 0x00000000#32) s = completed s s.block 0x0000000E#32 ∧
    exec (.tcEval 0xFFFFFFFF#32) s = completed s s.block 0x00000010#32 ∧
    exec (.tcEval 0x52755374#32) s = completed s s.block 0x00000F3B#32)

/-- R89: a host that reads WF and VALID in the response sees InvalidTypeCode, an invalid chunk type or a valid one. -/
def Obligations.HostReadsTheTypeCode : Prop :=
  ∀ arg s, ∃ v, exec (.tcEval arg) s = completed s s.block v ∧
    (readTypeCode v = .invalidTypeCode ↔ wellFormedCode arg = false) ∧
    (readTypeCode v = .notAValidChunkType ↔ wellFormedCode arg = true ∧ reservedOk arg = false) ∧
    (readTypeCode v = .valid ↔ wellFormedCode arg = true ∧ reservedOk arg = true)

/-- R107. -/
def Obligations.CrcInitLoadsTheSeed : Prop :=
  (∀ arg, decode (commandWord 0x2#4 arg) = .crcInit) ∧
  (∀ s, exec .crcInit s = completed s { s.block with crc := 0xFFFFFFFF#32 } 0#32) ∧
  (∀ s, performAll [issue .crcInit, issue .crcInit] s = exec .crcInit s) ∧
  (∀ s : State, ∃ t, exec .crcInit { s with block := Block.reset } = .next t ∧ t.block = Block.reset) ∧
  (∀ s, performAll [issue .crcInit, issue .crcRead] s = completed s { s.block with crc := 0xFFFFFFFF#32 } (crc32 []) ∧
    crc32 [] = 0#32)

/-- R101, R102, R103: `crc_byte` is eight iterations of a shift and a conditional XOR, `crc_fold` feeds a sequence
first byte first, and CRC32 folds from the seed and inverts. -/
def Obligations.CrcFunctionIsTheSpecs : Prop :=
  (∀ (c : Word) (d : Byte), crcByte c d =
    (List.range 8).foldl (fun (c : Word) _ => if c.getLsbD 0 then (c >>> 1) ^^^ 0xEDB88320#32 else c >>> 1)
      (c ^^^ d.setWidth 32)) ∧
  (∀ c, crcFold c [] = c) ∧
  (∀ c d m, crcFold c ([d] ++ m) = crcFold (crcByte c d) m) ∧
  (∀ m, crc32 m = crcFold 0xFFFFFFFF#32 m ^^^ 0xFFFFFFFF#32)

/-- R42: the byte is consumed bit 0 first and bit 7 last: feeding its bits one at a time, each compared with bit 0 of
the register, gives the same register. -/
def Obligations.CrcByteConsumesBitZeroFirst : Prop :=
  ∀ (c : Word) (d : Byte), crcByte c d =
    (List.range 8).foldl
      (fun (c : Word) k => if (c.getLsbD 0 ^^ d.getLsbD k) = true then (c >>> 1) ^^^ 0xEDB88320#32 else c >>> 1) c

/-- R108: CRC_BYTE feeds `arg[7:0]`; 0x00 is fed like any byte and leaves 0 only from 0. -/
def Obligations.CrcByteFeedsOneByte : Prop :=
  (∀ arg, decode (commandWord 0x3#4 arg) = .crcByte (arg.extractLsb 7 0)) ∧
  (∀ d s, exec (.crcByte d) s = completed s { s.block with crc := crcByte s.block.crc d } 0#32) ∧
  (∀ c, crcByte c 0x00#8 = 0#32 ↔ c = 0#32) ∧
  (∀ s, performAll [issue .crcInit, issue (.crcByte 0x00#8)] s = completed s { s.block with crc := 0x2DFD1072#32 } 0#32 ∧
    performAll [issue .crcInit, issue (.crcByte 0x00#8), issue .crcRead] s =
      completed s { s.block with crc := 0x2DFD1072#32 } 0xD202EF8D#32)

/-- R109: CRC_WORD feeds four bytes, `arg[31:24]` first, in one step; it is four CRC_BYTE commands. -/
def Obligations.CrcWordFeedsFourBytes : Prop :=
  (∀ arg, decode (commandWord 0x4#4 arg) = .crcWord arg) ∧
  (∀ arg s, exec (.crcWord arg) s = completed s
    { s.block with crc := crcByte (crcByte (crcByte (crcByte s.block.crc (arg.extractLsb 31 24)) (arg.extractLsb 23 16))
      (arg.extractLsb 15 8)) (arg.extractLsb 7 0) } 0#32) ∧
  (∀ arg s, exec (.crcWord arg) s = performAll ((wireBytes arg).map fun d => issue (.crcByte d)) s) ∧
  (∀ s, performAll [issue .crcInit, issue (.crcWord 0xFFFFFFFF#32)] s = completed s { s.block with crc := 0#32 } 0#32 ∧
    performAll [issue .crcInit, issue (.crcWord 0x49454E44#32)] s = completed s { s.block with crc := 0x51BD9F7D#32 } 0#32 ∧
    performAll [issue .crcInit, issue (.crcWord 0x49454E44#32), issue .crcRead] s =
      completed s { s.block with crc := 0x51BD9F7D#32 } 0xAE426082#32 ∧
    performAll [issue .crcInit, issue (.crcWord 0x444E4549#32)] s ≠ performAll [issue .crcInit, issue (.crcWord 0x49454E44#32)] s)

/-- R110: CRC_READ answers the final CRC and keeps the register. -/
def Obligations.CrcReadAnswersTheFinalCrc : Prop :=
  (∀ arg, decode (commandWord 0x5#4 arg) = .crcRead) ∧
  (∀ s, exec .crcRead s = completed s s.block (s.block.crc ^^^ 0xFFFFFFFF#32)) ∧
  (∀ s, performAll [issue .crcRead, issue .crcRead] s = exec .crcRead s) ∧
  (∀ s v, performAll [issue (.crcStateWrite v), issue .crcRead] s =
    completed s { s.block with crc := v } (v ^^^ 0xFFFFFFFF#32)) ∧
  (∀ s bytes, performAll (issue .crcInit :: (expandStr bytes).map issue ++ [issue .crcRead]) s =
    completed s { s.block with crc := crcFold 0xFFFFFFFF#32 bytes } (crc32 bytes)) ∧
  crc32 [0x31#8, 0x32#8, 0x33#8, 0x34#8, 0x35#8, 0x36#8, 0x37#8, 0x38#8, 0x39#8] = 0xCBF43926#32

/-- R111: CRC_CHECK compares the FINAL CRC with `arg`; the result goes to STATUS.MATCH and to the response; a
byte-swapped checksum matches only when the value is a palindrome of bytes; a second check overwrites the first. -/
def Obligations.CrcCheckComparesTheFinalCrc : Prop :=
  (∀ arg, decode (commandWord 0x6#4 arg) = .crcCheck arg) ∧
  (∀ v s, exec (.crcCheck v) s = completed s
    { s.block with statusMatch := decide (s.block.crc ^^^ 0xFFFFFFFF#32 = v) }
    (if s.block.crc ^^^ 0xFFFFFFFF#32 = v then 1#32 else 0#32)) ∧
  (∀ s, exec (.crcCheck s.block.crc) s = completed s { s.block with statusMatch := false } 0#32) ∧
  (∀ s (v : Word), v = s.block.crc ^^^ 0xFFFFFFFF#32 →
    ∃ t, exec (.crcCheck (packBE (byte4 v) (byte3 v) (byte2 v) (byte1 v))) s = .next t ∧
      (t.block.statusMatch = true ↔ byte1 v = byte4 v ∧ byte2 v = byte3 v)) ∧
  (∀ s, performAll [issue .crcInit, issue (.crcCheck 0#32)] s =
    completed s { s.block with crc := 0xFFFFFFFF#32, statusMatch := true } 1#32) ∧
  (∀ v v' s, performAll [issue (.crcCheck v), issue (.crcCheck v')] s = exec (.crcCheck v') s) ∧
  (∀ s, performAll ((expandChunk 0x49454E44#32 []).map issue ++ [issue (.crcCheck 0xAE426082#32)]) s =
      completed s { s.block with crc := 0x51BD9F7D#32, statusMatch := true } 1#32 ∧
    performAll ((expandChunk 0x49454E44#32 []).map issue ++ [issue (.crcCheck 0xAE426082#32), issue (.crcCheck 0x826042AE#32)]) s =
      completed s { s.block with crc := 0x51BD9F7D#32, statusMatch := false } 0#32)

/-- R112. -/
def Obligations.CrcStateReadAnswersTheRawRegister : Prop :=
  (∀ arg, decode (commandWord 0x7#4 arg) = .crcStateRead) ∧
  (∀ s, exec .crcStateRead s = completed s s.block s.block.crc) ∧
  (∀ s, performAll [issue .crcInit, issue .crcStateRead] s = completed s { s.block with crc := 0xFFFFFFFF#32 } 0xFFFFFFFF#32) ∧
  (∀ s, performAll [.reset, issue .crcStateRead] s = completed s Block.reset 0xFFFFFFFF#32) ∧
  (∀ s, performAll [issue .crcInit, issue (.crcWord 0x31323334#32), issue .crcStateRead] s =
    completed s { s.block with crc := 0x641C1F5C#32 } 0x641C1F5C#32)

/-- R113: CRC_STATE_WRITE takes any value; writing back a saved value resumes the computation exactly. -/
def Obligations.CrcStateWriteLoadsTheRawRegister : Prop :=
  (∀ arg, decode (commandWord 0x8#4 arg) = .crcStateWrite arg) ∧
  (∀ v s, exec (.crcStateWrite v) s = completed s { s.block with crc := v } 0#32) ∧
  (∀ s, exec (.crcStateWrite 0xFFFFFFFF#32) s = exec .crcInit s) ∧
  (∀ c a b s, performAll (issue (.crcStateWrite (crcFold c a)) :: (expandStr b).map issue ++ [issue .crcStateRead]) s =
    completed s { s.block with crc := crcFold c (a ++ b) } (crcFold c (a ++ b))) ∧
  (∀ s, performAll (issue (.crcStateWrite 0x641C1F5C#32) :: (expandStr [0x35#8, 0x36#8, 0x37#8, 0x38#8, 0x39#8]).map issue ++
    [issue .crcRead]) s = completed s { s.block with crc := 0x340BC6D9#32 } 0xCBF43926#32)

/-- R131, R26: STATUS_READ answers MATCH in bit 0, ILLEGAL in bit 1 and 0 in every bit above, and clears nothing. -/
def Obligations.StatusReadShowsTheTwoBits : Prop :=
  (∀ arg, decode (commandWord 0x9#4 arg) = .statusRead) ∧
  (∀ s, ∃ v, exec .statusRead s = completed s s.block v ∧ v.getLsbD 0 = s.block.statusMatch ∧
    v.getLsbD 1 = s.block.statusIllegal ∧ ∀ k, 2 ≤ k → v.getLsbD k = false) ∧
  (∀ s, performAll [.reset, issue .statusRead] s = completed s Block.reset 0#32) ∧
  (∀ s v, v = s.block.crc ^^^ 0xFFFFFFFF#32 →
    performAll [issue .rsvd0xF, issue (.crcCheck v), issue .statusRead] s =
      completed s { s.block with statusMatch := true, statusIllegal := true } 3#32)

/-- R132. -/
def Obligations.StatusClearClearsBothBits : Prop :=
  (∀ arg, decode (commandWord 0xA#4 arg) = .statusClear) ∧
  (∀ s, exec .statusClear s = completed s { s.block with statusMatch := false, statusIllegal := false } 0#32) ∧
  (∀ s, performAll [issue .statusClear, issue .statusClear] s = exec .statusClear s) ∧
  (∀ s, ∀ i ∈ [Instr.rsvd0xB, .rsvd0xC, .rsvd0xD, .rsvd0xE, .rsvd0xF],
    performAll [issue i, issue .statusClear] s = exec .statusClear s) ∧
  (∀ s, performAll [issue .statusClear, issue .statusRead] s =
    completed s { s.block with statusMatch := false, statusIllegal := false } 0#32)

/-- R133, R66: each of the five reserved values is performed: it sets STATUS.ILLEGAL, answers 0, feeds no byte and
changes nothing else. -/
def Obligations.ReservedCommandsOnlySetIllegal : Prop :=
  (∀ arg, decode (commandWord 0xB#4 arg) = .rsvd0xB ∧ decode (commandWord 0xC#4 arg) = .rsvd0xC ∧
    decode (commandWord 0xD#4 arg) = .rsvd0xD ∧ decode (commandWord 0xE#4 arg) = .rsvd0xE ∧
    decode (commandWord 0xF#4 arg) = .rsvd0xF) ∧
  (∀ s, ∀ i ∈ [Instr.rsvd0xB, .rsvd0xC, .rsvd0xD, .rsvd0xE, .rsvd0xF],
    exec i s = completed s { s.block with statusIllegal := true } 0#32) ∧
  (∀ s, performAll [issue .statusClear, issue .rsvd0xF, issue .statusRead] s =
    completed s { s.block with statusMatch := false, statusIllegal := true } 2#32)

/-! The registers (10_state.md) and the reset (70_reset_and_hazards.md). -/

/-- R24: STATUS.MATCH holds the result of the last CRC_CHECK since the last reset or STATUS_CLEAR, whatever commands
follow it, and reads 0 with none since then. -/
def Obligations.MatchHoldsTheLastCheck : Prop :=
  (∀ checksum es s, (∀ e ∈ es, keepsMatch e = true) →
    ∃ t, performAll (issue (.crcCheck checksum) :: es) s = .next t ∧
      t.block.statusMatch = decide (crcFinal s.block.crc = checksum)) ∧
  (∀ e ∈ [HostEvent.reset, issue .statusClear], ∀ es s, (∀ e ∈ es, keepsMatch e = true) →
    ∃ t, performAll (e :: es) s = .next t ∧ t.block.statusMatch = false) ∧
  (∀ d arg v, ∀ i ∈ [Instr.crcInit, .crcByte d, .crcWord arg, .crcStateWrite v], keepsMatch (issue i) = true)

/-- R25: STATUS.ILLEGAL is set by every reserved command, cleared by STATUS_CLEAR and by a reset, and left alone by
every other command. -/
def Obligations.IllegalIsSticky : Prop :=
  (∀ i s, ∃ t, exec i s = .next t ∧
    (i.isReserved = true → t.block.statusIllegal = true) ∧
    (i = .statusClear → t.block.statusIllegal = false) ∧
    (i.isReserved = false → i ≠ .statusClear → t.block.statusIllegal = s.block.statusIllegal)) ∧
  (∀ s, ∃ t, performEvent .reset s = .next t ∧ t.block.statusIllegal = false)

/-- R166: between STATUS_CLEAR and STATUS_READ, bit 1 of the answer tells exactly whether a reserved command was
among the commands issued. -/
def Obligations.StatusAuditsTheSequence : Prop :=
  ∀ (is : List Instr) s, (∀ i ∈ is, i ≠ .statusClear) →
    ∃ t v, performAll (issue .statusClear :: is.map issue ++ [issue .statusRead]) s = .next t ∧ t.rsp = some v ∧
      v.getLsbD 1 = is.any Instr.isReserved

/-- R25, R166: while nothing the host still presents can set STATUS.ILLEGAL, a clear STATUS.ILLEGAL stays clear. -/
def Obligations.StepKeepsAuditClean : Prop := ∀ s t, AuditClean s → step s = .next t → AuditClean t

/-- R29 gives that STATUS.ILLEGAL is clear after reset. That nothing presented could set it is the model's choice
(log 7): at `State.reset` no event is pending. -/
def Obligations.ResetIsAuditClean : Prop := AuditClean State.reset

/-- R25: while nothing the host still presents clears STATUS.ILLEGAL, a set STATUS.ILLEGAL stays set. -/
def Obligations.StepKeepsIllegalStuck : Prop := ∀ s t, IllegalStuck s → step s = .next t → IllegalStuck t

/-- R161, R29: a reset event sets every element of the block to its reset value from every state; two resets leave what
one leaves; `State.reset` is such a state. That `rsp` is then none is derived: R160 says that a reset event produces no
response, and the model holds that as an absent `rsp` (log 6). -/
def Obligations.ResetSetsEveryElement : Prop :=
  (∀ s rest, s.pending = .reset :: rest → step s = .next
    { s with
      block := { crc := 0xFFFFFFFF#32, statusMatch := false, statusIllegal := false }
      pending := rest
      rsp := none }) ∧
  (∀ s, performAll [.reset, .reset] s = performAll [.reset] s) ∧
  (∀ s : State, s.block = Block.reset → s.block.statusWord = 0#32) ∧
  State.reset.block = { crc := 0xFFFFFFFF#32, statusMatch := false, statusIllegal := false }

/-- R162: a command overtaken by a reset leaves the reset state either way, and the host receives that command's
response or none. Which of the two is a free value (log 3): the statement holds for both. -/
def Obligations.OvertakenCommandLeavesTheResetState : Prop :=
  ∀ w s, ∃ b v t, exec (decode w) s = completed s b v ∧ performEvent (.overtakenCommand w) s = .next t ∧
    t.block = Block.reset ∧ (t.rsp = some v ∨ t.rsp = none) ∧ t.pending = s.pending

/-- R30, R164: a host that resets directly after every power-on never sees the unspecified power-on state. With the
same block to start from, neither the block it reaches nor any response on the way depends on what the free values are
drawn as: after each event of the sequence the two hosts hold the same response. Only for a command that a reset
overtakes may one hold its response and the other none (R162, log 3). -/
def Obligations.BootDutyHidesThePowerOnState : Prop :=
  ∀ es s s', bootDuty es = true → s.block = s'.block →
    (∃ t t', performAll es s = .next t ∧ performAll es s' = .next t' ∧ t.block = t'.block) ∧
    (∀ before e after, es = before ++ e :: after →
      ∃ t t', performAll (before ++ [e]) s = .next t ∧ performAll (before ++ [e]) s' = .next t' ∧
        ((∀ w, e ≠ .overtakenCommand w) → t.rsp = t'.rsp) ∧
        (t.rsp = t'.rsp ∨ t.rsp = none ∨ t'.rsp = none))

/-! The CRC over sequences of commands (41_crc.md, 20_memory.md). -/

/-- R22, R43: from any register value, any sequence of commands that does not set `crc` leaves the running CRC of
exactly the bytes it fed, in the order it fed them. -/
def Obligations.RegisterHoldsTheRunningCrc : Prop :=
  ∀ (is : List Instr) s, (∀ i ∈ is, setsCrc i = false) →
    ∃ t, performAll (is.map issue) s = .next t ∧ t.block.crc = crcFold s.block.crc (is.flatMap fedBytes)

/-- R47: any two mixes of CRC_BYTE and CRC_WORD that feed the same bytes in the same order leave the same machine; in
particular CRC_WORD `a ‖ b ‖ c ‖ d` is CRC_BYTE of a, b, c and d. -/
def Obligations.MixedWidthsAgree : Prop :=
  (∀ (is js : List Instr) s, (∀ i ∈ is, fedBytes i ≠ []) → (∀ j ∈ js, fedBytes j ≠ []) →
    is.flatMap fedBytes = js.flatMap fedBytes → performAll (is.map issue) s = performAll (js.map issue) s) ∧
  (∀ a b c d s, performAll [issue (.crcWord (packBE a b c d))] s =
    performAll [issue (.crcByte a), issue (.crcByte b), issue (.crcByte c), issue (.crcByte d)] s)

/-- R55, R56, R113: a computation saved with CRC_STATE_READ and restored with CRC_STATE_WRITE goes on as if whatever the
host did in between had not happened. That this takes in a power cycle with no reset before the CRC_STATE_WRITE, which
R164 bars to a host and R30 lets a model admit, is the model's choice (log 4). -/
def Obligations.SaveAndRestoreResumes : Prop :=
  ∀ (es : List HostEvent) (is : List Instr) s, ∃ v t t', exec .crcStateRead s = completed s s.block v ∧
    performAll (es ++ issue (.crcStateWrite v) :: is.map issue) s = .next t ∧
    performAll (is.map issue) s = .next t' ∧ t.block.crc = t'.block.crc

/-- R104, R105, R111: after CRC_CHUNK a stored checksum matches exactly when it is the chunk's, from every state. -/
def Obligations.ChunkIsVerifiedExactly : Prop :=
  ∀ code data stored s, ∃ t,
    performAll ((expandChunk code data).map issue ++ [issue (.crcCheck stored)]) s = .next t ∧
    (t.block.statusMatch = true ↔ stored = chunkChecksum (wireBytes code) data) ∧
    t.rsp = some (if stored = chunkChecksum (wireBytes code) data then 1#32 else 0#32)

/-- R45, R46: the final CRC written to the wire big-endian and read back as the stored checksum matches. -/
def Obligations.WireChecksumMatches : Prop :=
  ∀ s, ∃ v, exec .crcRead s = completed s s.block v ∧
    exec (.crcCheck (packBE (v.extractLsb 31 24) (v.extractLsb 23 16) (v.extractLsb 15 8) (v.extractLsb 7 0))) s =
      completed s { s.block with statusMatch := true } 1#32

/-- R114: (a) split and resume, (b) the empty sequence, (c) linearity over GF(2), (d) the zero register. -/
def Obligations.LawsOfTheCrcFunction : Prop :=
  (∀ c a b, crcFold c (a ++ b) = crcFold (crcFold c a) b) ∧
  crc32 [] = 0#32 ∧
  (∀ c1 c2 d1 d2, crcByte (c1 ^^^ c2) (d1 ^^^ d2) = crcByte c1 d1 ^^^ crcByte c2 d2) ∧
  crcByte 0#32 0#8 = 0#32

/-- R115: flipping any single bit of any message changes its CRC; and at the block, a chunk corrupted in one payload
bit or one type bit fails the check of its stored checksum. -/
def Obligations.SingleBitErrorsAreDetected : Prop :=
  (∀ (before after : List Byte) (d : Byte) (k : Fin 8),
    crc32 (before ++ (d ^^^ 1#8 <<< k.val) :: after) ≠ crc32 (before ++ d :: after)) ∧
  (∀ (code : Word) (before after : List Byte) (d : Byte) (k : Fin 8) (s : State),
    ∃ t, performAll ((expandChunk code (before ++ (d ^^^ 1#8 <<< k.val) :: after)).map issue ++
        [issue (.crcCheck (chunkChecksum (wireBytes code) (before ++ d :: after)))]) s = .next t ∧
      t.rsp = some 0#32 ∧ t.block.statusMatch = false) ∧
  (∀ (code : Word) (data : List Byte) (k : Fin 32) (s : State),
    ∃ t, performAll ((expandChunk (code ^^^ 1#32 <<< k.val) data).map issue ++
        [issue (.crcCheck (chunkChecksum (wireBytes code) data))]) s = .next t ∧
      t.rsp = some 0#32 ∧ t.block.statusMatch = false)

/-- R106: the byte-wide table computes the same register: one lookup indexed by the low byte, one shift by 8. -/
def Obligations.ByteTableComputesTheSameCrc : Prop :=
  ∀ (c : Word) (d : Byte), crcByte c d = crcTable (c.setWidth 8 ^^^ d) ^^^ (c >>> 8)

/-! The conditions (60_exceptions.md). -/

/-- R141: when each condition is raised, and what is recorded of it. Of a reserved command nothing but STATUS.ILLEGAL
is: the response is 0 (R133) whatever `cmd` and `arg` were. -/
def Obligations.ConditionsAreRecorded : Prop :=
  ∀ i s, ∃ t v, exec i s = .next t ∧ t.rsp = some v ∧
    (.illegalCmd ∈ conditionsOf i s.block ↔ i.isReserved = true) ∧
    (.illegalCmd ∈ conditionsOf i s.block → v = 0#32 ∧ t.block = { s.block with statusIllegal := true }) ∧
    (.crcMismatch ∈ conditionsOf i s.block ↔ ∃ arg, i = .crcCheck arg ∧ s.block.crc ^^^ 0xFFFFFFFF#32 ≠ arg) ∧
    (.crcMismatch ∈ conditionsOf i s.block → v = 0#32 ∧ t.block = { s.block with statusMatch := false }) ∧
    (.tcNotWf ∈ conditionsOf i s.block ↔ ∃ arg, i = .tcEval arg ∧ wellFormedCode arg = false) ∧
    (∀ arg, i = .tcEval arg → .tcNotWf ∈ conditionsOf i s.block → t.block = s.block ∧ v.getLsbD 0 = false ∧
      v.getLsbD 8 = alpha (byte1 arg) ∧ v.getLsbD 9 = alpha (byte2 arg) ∧ v.getLsbD 10 = alpha (byte3 arg) ∧
      v.getLsbD 11 = alpha (byte4 arg)) ∧
    (.tcNotValid ∈ conditionsOf i s.block ↔ ∃ arg, i = .tcEval arg ∧ validCode arg = false) ∧
    (.tcNotValid ∈ conditionsOf i s.block → t.block = s.block ∧ v.getLsbD 5 = false ∧
      (v.getLsbD 0 = true → v.getLsbD 3 = false))

/-- R145: no command raises ILLEGAL_CMD and CRC_MISMATCH together; TC_NOT_WF comes with TC_NOT_VALID, and the single
condition reported is then TC_NOT_WF. -/
def Obligations.ConditionPriority : Prop :=
  ∀ i b, ¬ (.illegalCmd ∈ conditionsOf i b ∧ .crcMismatch ∈ conditionsOf i b) ∧
    (.tcNotWf ∈ conditionsOf i b → .tcNotValid ∈ conditionsOf i b ∧ reportedCondition i b = some .tcNotWf) ∧
    (conditionsOf i b ≠ [] → ∃ c ∈ conditionsOf i b, reportedCondition i b = some c)

/-- R142: of the document's error kinds exactly `InvalidTypeCode` and `ChecksumMismatch` have a form in the block, and
the block raises the condition exactly when that kind's cause is there. -/
def Obligations.TwoErrorKindsAreTheBlocks : Prop :=
  (∀ k : ErrorKind, k.blockForm ≠ none ↔ k = .invalidTypeCode ∨ k = .checksumMismatch) ∧
  (∀ arg b c, ErrorKind.blockForm .invalidTypeCode = some c →
    (c ∈ conditionsOf (.tcEval arg) b ↔ ∃ d ∈ wireBytes arg, alpha d = false)) ∧
  (∀ stored b c, ErrorKind.blockForm .checksumMismatch = some c →
    (c ∈ conditionsOf (.crcCheck stored) b ↔ crcFinal b.crc ≠ stored))
end

