-- ==== Sys2Proof/Laws/Assembler.lean ====
section
/-! SUPPORT. What the assembler can answer for a mnemonic with an operand. -/

namespace Sys2Proof.Machine

/-- What a mnemonic with an operand gives, whatever text follows it: the literal, read in the form of its row, in the
command of its row. -/
theorem readCommand_operand (m : String × OperandForm × (Word → Instr)) (hm : m ∈ operandMnemonics) (text : List Char) :
    readCommand m.1.toList text =
      (readLiteral (skipBlanks text)).bind fun p => (operandValue m.2.1 p.1).map fun w => ([m.2.2 w], p.2) := by
  have plain : plainMnemonics.find? (fun p => p.1.toList == m.1.toList) = none := by
    simp only [operandMnemonics, List.mem_cons, List.not_mem_nil, or_false] at hm
    rcases hm with rfl | rfl | rfl | rfl | rfl <;> decide
  have own : operandMnemonics.find? (fun p => p.1.toList == m.1.toList) = some m := by
    simp only [operandMnemonics, List.mem_cons, List.not_mem_nil, or_false] at hm
    rcases hm with rfl | rfl | rfl | rfl | rfl <;> rfl
  rw [readCommand, plain, own]
  cases readLiteral (skipBlanks text) <;> rfl

/-- What a number gives for an operand form. -/
theorem operandValue_number (form : OperandForm) (n : Nat) :
    operandValue form (.number n) =
      if operandFits form (some n) then .ok (BitVec.ofNat 32 n) else .error .valueDoesNotFit := rfl

end Sys2Proof.Machine
end

