-- ==== Sys2Proof/Laws/Crc.lean ====
section
/-! SUPPORT. The unfolding lemmas of the CRC function. -/

namespace Sys2Proof.Machine

@[simp] theorem crcFold_nil (c : Word) : crcFold c [] = c := rfl
@[simp] theorem crcFold_cons (c : Word) (d : Byte) (m : List Byte) : crcFold c (d :: m) = crcFold (crcByte c d) m := rfl

/-- CRC_WORD's four byte steps feed the word's bytes in wire order. -/
theorem crcWord_eq_crcFold (c arg : Word) : crcWord c arg = crcFold c (wireBytes arg) := rfl

@[simp] theorem crcFinal_crcFinal (c : Word) : crcFinal (crcFinal c) = c := by
  simp [crcFinal]

end Sys2Proof.Machine
end

