-- ==== Sys2Proof/Laws/Decode.lean ====
section
/-! SUPPORT. The fields of a command word, and the bytes of a word. -/

namespace Sys2Proof

theorem getLsbD_commandWord (c : Cmd) (a : Word) (k : Nat) :
    (commandWord c a).getLsbD k = if k < 32 then a.getLsbD k else c.getLsbD (k - 32) := by
  have h := BitVec.getLsbD_append (x := c) (y := a) (i := k)
  simpa [commandWord, Bool.cond_eq_ite] using h

@[simp] theorem cmdOf_commandWord (c : Cmd) (a : Word) : cmdOf (commandWord c a) = c := by
  apply BitVec.eq_of_getLsbD_eq
  intro k hk
  simp [cmdOf, getLsbD_commandWord, hk]

@[simp] theorem argOf_commandWord (c : Cmd) (a : Word) : argOf (commandWord c a) = a := by
  apply BitVec.eq_of_getLsbD_eq
  intro k hk
  simp [argOf, getLsbD_commandWord, hk]

@[simp] theorem commandWord_cmdOf_argOf (w : CommandWord) : commandWord (cmdOf w) (argOf w) = w :=
  BitVec.extractLsb'_append_extractLsb'

@[simp] theorem decode_commandWord (c : Cmd) (a : Word) : decode (commandWord c a) = decodeFields c a := by
  simp [decode]

/-- The mask of every row keeps `cmd` and clears `arg` (R65). -/
theorem commandWord_and_mask (c : Cmd) (a : Word) : commandWord c a &&& 0xF00000000#36 = commandWord c 0 := by
  apply BitVec.eq_of_getLsbD_eq
  intro k hk
  rw [BitVec.getLsbD_and, getLsbD_commandWord, getLsbD_commandWord]
  have mask : ∀ j : Fin 36, (0xF00000000#36).getLsbD j.val = decide (32 ≤ j.val) := by decide
  rw [show (0xF00000000#36).getLsbD k = decide (32 ≤ k) from mask ⟨k, hk⟩]
  by_cases h : k < 32
  · simp [h, Nat.not_le.mpr h]
  · simp [h, Nat.le_of_not_lt h]

namespace Machine

@[simp] theorem byte4_setWidth (d : Byte) : byte4 (d.setWidth 32) = d := by
  apply BitVec.eq_of_getLsbD_eq
  intro k hk
  simp only [byte4, BitVec.getLsbD_extractLsb', BitVec.getLsbD_setWidth, hk, Nat.zero_add, decide_true, Bool.true_and]
  simp [show k < 32 by omega]

theorem getLsbD_packBE (c0 c1 c2 c3 : Byte) (k : Nat) :
    (packBE c0 c1 c2 c3).getLsbD k =
      if k < 8 then c3.getLsbD k
      else if k < 16 then c2.getLsbD (k - 8)
      else if k < 24 then c1.getLsbD (k - 16)
      else c0.getLsbD (k - 24) := by
  have h3 := BitVec.getLsbD_append (x := c0 ++ c1 ++ c2) (y := c3) (i := k)
  have h2 := BitVec.getLsbD_append (x := c0 ++ c1) (y := c2) (i := k - 8)
  have h1 := BitVec.getLsbD_append (x := c0) (y := c1) (i := k - 8 - 8)
  have whole : (packBE c0 c1 c2 c3).getLsbD k = (c0 ++ c1 ++ c2 ++ c3).getLsbD k := rfl
  rw [whole, h3, h2, h1]
  by_cases a : k < 8
  · simp [a]
  · by_cases b : k < 16
    · simp [a, b, show k - 8 < 8 by omega]
    · by_cases c : k < 24
      · simp [a, b, c, show ¬ k - 8 < 8 by omega, show k - 8 - 8 < 8 by omega, show k - 16 = k - 8 - 8 by omega]
      · simp [a, b, c, show ¬ k - 8 < 8 by omega, show ¬ k - 8 - 8 < 8 by omega,
          show k - 24 = k - 8 - 8 - 8 by omega]

@[simp] theorem byte1_packBE (c0 c1 c2 c3 : Byte) : byte1 (packBE c0 c1 c2 c3) = c0 := by
  apply BitVec.eq_of_getLsbD_eq
  intro k hk
  simp [byte1, getLsbD_packBE, hk, show ¬ 24 + k < 8 by omega, show ¬ 24 + k < 16 by omega]

@[simp] theorem byte2_packBE (c0 c1 c2 c3 : Byte) : byte2 (packBE c0 c1 c2 c3) = c1 := by
  apply BitVec.eq_of_getLsbD_eq
  intro k hk
  simp [byte2, getLsbD_packBE, hk, show ¬ 16 + k < 8 by omega, show 16 + k < 24 by omega]

@[simp] theorem byte3_packBE (c0 c1 c2 c3 : Byte) : byte3 (packBE c0 c1 c2 c3) = c2 := by
  apply BitVec.eq_of_getLsbD_eq
  intro k hk
  simp [byte3, getLsbD_packBE, hk, show 8 + k < 16 by omega]

@[simp] theorem byte4_packBE (c0 c1 c2 c3 : Byte) : byte4 (packBE c0 c1 c2 c3) = c3 := by
  apply BitVec.eq_of_getLsbD_eq
  intro k hk
  simp [byte4, getLsbD_packBE, hk]

end Machine

end Sys2Proof
end

