-- ==== Sys2Proof/Laws/State.lean ====
section
/-! SUPPORT. What each update of the state leaves in each field. -/

namespace Sys2Proof.Machine

section
variable (s : State) (v : Word) (b : Bool) (w : CommandWord)

@[simp] theorem State.writeCrc_crc : (s.writeCrc v).block.crc = v := rfl
@[simp] theorem State.writeCrc_statusMatch : (s.writeCrc v).block.statusMatch = s.block.statusMatch := rfl
@[simp] theorem State.writeCrc_statusIllegal : (s.writeCrc v).block.statusIllegal = s.block.statusIllegal := rfl
@[simp] theorem State.writeCrc_pending : (s.writeCrc v).pending = s.pending := rfl
@[simp] theorem State.writeCrc_rsp : (s.writeCrc v).rsp = s.rsp := rfl
@[simp] theorem State.writeCrc_draws : (s.writeCrc v).draws = s.draws := rfl

@[simp] theorem State.writeMatch_crc : (s.writeMatch b).block.crc = s.block.crc := rfl
@[simp] theorem State.writeMatch_statusMatch : (s.writeMatch b).block.statusMatch = b := rfl
@[simp] theorem State.writeMatch_statusIllegal : (s.writeMatch b).block.statusIllegal = s.block.statusIllegal := rfl
@[simp] theorem State.writeMatch_pending : (s.writeMatch b).pending = s.pending := rfl
@[simp] theorem State.writeMatch_rsp : (s.writeMatch b).rsp = s.rsp := rfl
@[simp] theorem State.writeMatch_draws : (s.writeMatch b).draws = s.draws := rfl

@[simp] theorem State.writeIllegal_crc : (s.writeIllegal b).block.crc = s.block.crc := rfl
@[simp] theorem State.writeIllegal_statusMatch : (s.writeIllegal b).block.statusMatch = s.block.statusMatch := rfl
@[simp] theorem State.writeIllegal_statusIllegal : (s.writeIllegal b).block.statusIllegal = b := rfl
@[simp] theorem State.writeIllegal_pending : (s.writeIllegal b).pending = s.pending := rfl
@[simp] theorem State.writeIllegal_rsp : (s.writeIllegal b).rsp = s.rsp := rfl
@[simp] theorem State.writeIllegal_draws : (s.writeIllegal b).draws = s.draws := rfl

@[simp] theorem State.resetBlock_block : s.resetBlock.block = Block.reset := rfl
@[simp] theorem State.resetBlock_pending : s.resetBlock.pending = s.pending := rfl
@[simp] theorem State.resetBlock_rsp : s.resetBlock.rsp = none := rfl
@[simp] theorem State.resetBlock_draws : s.resetBlock.draws = s.draws := rfl

@[simp] theorem State.overtake_block : s.overtake.block = Block.reset := rfl
@[simp] theorem State.overtake_pending : s.overtake.pending = s.pending := rfl
@[simp] theorem State.overtake_draws : s.overtake.draws = s.draws + 1 := rfl

@[simp] theorem State.losePower_pending : s.losePower.pending = s.pending := rfl
@[simp] theorem State.losePower_rsp : s.losePower.rsp = none := rfl
@[simp] theorem State.losePower_draws : s.losePower.draws = s.draws + 1 := rfl

@[simp] theorem State.present_block : (s.present w).block = s.block := rfl
@[simp] theorem State.present_pending : (s.present w).pending = .command w :: s.pending := rfl
@[simp] theorem State.present_rsp : (s.present w).rsp = s.rsp := rfl
@[simp] theorem State.present_draws : (s.present w).draws = s.draws := rfl

/-- The host either gets the response of the overtaken command or gets none, whatever the free value is. -/
theorem State.overtake_rsp_cases : s.overtake.rsp = s.rsp ∨ s.overtake.rsp = none := by
  by_cases h : Config.overtakenDelivered s.draws = true
  · exact .inl (by simp [State.overtake, h])
  · exact .inr (by simp [State.overtake, h])

end

@[simp] theorem Block.reset_crc : Block.reset.crc = 0xFFFFFFFF#32 := rfl
@[simp] theorem Block.reset_statusMatch : Block.reset.statusMatch = false := rfl
@[simp] theorem Block.reset_statusIllegal : Block.reset.statusIllegal = false := rfl
@[simp] theorem State.reset_block : State.reset.block = Block.reset := rfl
@[simp] theorem State.reset_pending : State.reset.pending = [] := rfl
@[simp] theorem State.reset_rsp : State.reset.rsp = none := rfl

end Sys2Proof.Machine
end

