-- ==== Sys2Proof/Laws/Ops.lean ====
section
/-! SUPPORT. What each shared operation can do. -/

namespace Sys2Proof.Machine

@[simp] theorem Result.andThen_next (s : State) (f : State → Result) : Result.andThen (.next s) f = f s := rfl

/-- Going on answers a next state exactly when the first part does and the second does from there. -/
theorem Result.andThen_eq_next_iff (r : Result) (f : State → Result) (t : State) :
    Result.andThen r f = .next t ↔ ∃ s, r = .next s ∧ f s = .next t := by
  cases r <;> simp [Result.andThen]

theorem State.respond_eq_next_iff (s t : State) (v : Word) : s.respond v = .next t ↔ t = { s with rsp := some v } := by
  simp only [State.respond, Host.Outcome.next.injEq]
  exact eq_comm

theorem State.recordIllegal_eq_next_iff (s t : State) :
    s.recordIllegal = .next t ↔ t = { s.writeIllegal true with rsp := some 0#32 } :=
  State.respond_eq_next_iff _ _ _

@[simp] theorem performEvent_command (w : CommandWord) (s : State) : performEvent (.command w) s = exec (decode w) s := rfl
@[simp] theorem performEvent_reset (s : State) : performEvent .reset s = .next s.resetBlock := rfl
@[simp] theorem performEvent_powerCycle (s : State) : performEvent .powerCycle s = .next s.losePower := rfl
@[simp] theorem performEvent_overtakenCommand (w : CommandWord) (s : State) :
    performEvent (.overtakenCommand w) s = Result.andThen (exec (decode w) s) fun t => .next t.overtake := rfl

theorem takeEvent_nil (s : State) (h : s.pending = []) : takeEvent s = .next s := by
  simp only [takeEvent, h]

theorem takeEvent_cons (s : State) (e : HostEvent) (rest : List HostEvent) (h : s.pending = e :: rest) :
    takeEvent s = performEvent e { s with pending := rest } := by
  simp only [takeEvent, h]

@[simp] theorem performAll_nil (s : State) : performAll [] s = .next s := rfl
@[simp] theorem performAll_cons (e : HostEvent) (es : List HostEvent) (s : State) :
    performAll (e :: es) s = Result.andThen (performEvent e s) fun t => performAll es t := rfl

end Sys2Proof.Machine
end

