-- ==== Sys2Proof/Laws/PerInstr.lean ====
section
/-! SUPPORT. Per instruction: its canonical word lies in the row of the opcode table that carries its mnemonic. -/

namespace Sys2Proof.Laws.EncodedRow

/-- The opcode table has a row with the command's mnemonic that accepts the command's canonical word. -/
def Statement (i : Instr) : Prop := ∃ r ∈ opcodeTable, r.mnemonic = mnemonicOf i ∧ r.accepts (encode i) = true

/-- A row of the table with mask 0xF00000000 and match `cmd ‖ 0` accepts every word of that `cmd`. -/
theorem accepts_commandWord (m : String) (c : Cmd) (a : Word) :
    OpcodeRow.accepts ⟨m, commandWord c 0, 0xF00000000⟩ (commandWord c a) = true := by
  simpa [OpcodeRow.accepts] using commandWord_and_mask c a

theorem of_row (i : Instr) (h : ⟨mnemonicOf i, commandWord (opcodeOf i) 0, 0xF00000000⟩ ∈ opcodeTable) : Statement i :=
  ⟨_, h, rfl, accepts_commandWord _ _ _⟩

theorem nop : Statement .nop := of_row _ (by decide)
theorem tcEval (arg : Word) : Statement (.tcEval arg) := of_row (.tcEval arg) (by simp only [mnemonicOf, opcodeOf]; decide)
theorem crcInit : Statement .crcInit := of_row _ (by decide)
theorem crcByte (d : Byte) : Statement (.crcByte d) := of_row (.crcByte d) (by simp only [mnemonicOf, opcodeOf]; decide)
theorem crcWord (arg : Word) : Statement (.crcWord arg) := of_row (.crcWord arg) (by simp only [mnemonicOf, opcodeOf]; decide)
theorem crcRead : Statement .crcRead := of_row _ (by decide)
theorem crcCheck (checksum : Word) : Statement (.crcCheck checksum) :=
  of_row (.crcCheck checksum) (by simp only [mnemonicOf, opcodeOf]; decide)
theorem crcStateRead : Statement .crcStateRead := of_row _ (by decide)
theorem crcStateWrite (state : Word) : Statement (.crcStateWrite state) :=
  of_row (.crcStateWrite state) (by simp only [mnemonicOf, opcodeOf]; decide)
theorem statusRead : Statement .statusRead := of_row _ (by decide)
theorem statusClear : Statement .statusClear := of_row _ (by decide)
theorem rsvd0xB : Statement .rsvd0xB := of_row _ (by decide)
theorem rsvd0xC : Statement .rsvd0xC := of_row _ (by decide)
theorem rsvd0xD : Statement .rsvd0xD := of_row _ (by decide)
theorem rsvd0xE : Statement .rsvd0xE := of_row _ (by decide)
theorem rsvd0xF : Statement .rsvd0xF := of_row _ (by decide)

end Sys2Proof.Laws.EncodedRow
end

