-- ==== Sys2Proof/Tests/Slice0.lean ====
section
/-! SUPPORT. Tests on fixed values. Every expected value comes from spec/: 30_encoding.md R71, 95_test_vectors.md
(TC-, CRC- and CMD- ids, or the table named) or the rule cited. The witnesses at the end meet the hypotheses of the
obligations. -/

namespace Sys2Proof.Tests

open Sys2Proof.Machine

-- Evaluating a CRC of many bytes nests deeper than the default allows.
set_option maxRecDepth 8000

/-! The encoding: words written out from R60, R64 and R71. -/

theorem test_decode_nop : decode 0b0000_0000000000000000_0000000000000000#36 = .nop := by decide
theorem test_decode_tcEval : decode 0b0001_0101001001110101_0101001101110100#36 = .tcEval 0x52755374#32 := by decide
theorem test_decode_crcInit : decode 0b0010_0000000000000000_0000000000000000#36 = .crcInit := by decide
theorem test_decode_crcByte : decode 0b0011_0000000000000000_0000000001100001#36 = .crcByte 0x61#8 := by decide
theorem test_decode_crcWord : decode 0b0100_0100100101000101_0100111001000100#36 = .crcWord 0x49454E44#32 := by decide
theorem test_decode_crcRead : decode 0b0101_0000000000000000_0000000000000000#36 = .crcRead := by decide
theorem test_decode_crcCheck : decode 0b0110_1010111001000010_0110000010000010#36 = .crcCheck 0xAE426082#32 := by decide
theorem test_decode_crcStateRead : decode 0b0111_0000000000000000_0000000000000000#36 = .crcStateRead := by decide
theorem test_decode_crcStateWrite :
    decode 0b1000_0110010000011100_0001111101011100#36 = .crcStateWrite 0x641C1F5C#32 := by decide
theorem test_decode_statusRead : decode 0b1001_0000000000000000_0000000000000000#36 = .statusRead := by decide
theorem test_decode_statusClear : decode 0b1010_0000000000000000_0000000000000000#36 = .statusClear := by decide
theorem test_decode_rsvd0xB : decode 0b1011_0000000000000000_0000000000000000#36 = .rsvd0xB := by decide
theorem test_decode_rsvd0xC : decode 0b1100_0000000000000000_0000000001100010#36 = .rsvd0xC := by decide
theorem test_decode_rsvd0xD : decode 0b1101_0000000000000000_0000000000000000#36 = .rsvd0xD := by decide
theorem test_decode_rsvd0xE : decode 0b1110_0000000000000000_0000000000000000#36 = .rsvd0xE := by decide
theorem test_decode_rsvd0xF : decode 0b1111_0000000000000000_0000000000000000#36 = .rsvd0xF := by decide

/-- R71: `0x3_FFFFFF61` is also CRC_BYTE 'a'. -/
theorem test_decode_ignored_bits : decode 0x3FFFFFF61#36 = .crcByte 0x61#8 := by decide
theorem test_encode_crcByte : encode (.crcByte 0x61#8) = 0x300000061#36 := by decide
theorem test_encode_crcCheck : encode (.crcCheck 0xAE426082#32) = 0x6AE426082#36 := by decide

/-- The table's numbering, in 36 bits and in whole bytes; a bit above bit 35 is refused by name. -/
theorem test_decodeTableWord : decodeTableWord 36 0x300000061 = some (.crcByte 0x61#8) := by decide
theorem test_decodeTableWord_bytes : decodeTableWord 40 0xF00000000 = some .rsvd0xF := by decide
theorem test_decodeTableWord_wide : decodeTableWord 40 0x1F00000000 = none := by decide
theorem test_wordOfBits_wide : wordOfBits 40 0x1000000000 = .error .widerThanCommand := by decide

/-! Well-formedness: one ill-formed term for each check (R68, R69), and one for canonical words (R63). -/

theorem test_illFormed_unexpected_operand : operandFits .none (some 0) = false := by decide
theorem test_illFormed_missing_operand : operandFits .checksum none = false := by decide
theorem test_illFormed_byte_too_large : operandFits .byte (some 0x100) = false := by decide
theorem test_illFormed_word_too_large : operandFits .bytes4 (some 0x100000000) = false := by decide
theorem test_wellFormed_operands : operandFits .byte (some 0xFF) && operandFits .state (some 0xFFFFFFFF) &&
    operandFits .none none = true := by decide
theorem test_not_canonical : isCanonical 0x3FFFFFF61#36 = false := by decide

/-! The assembler (R68 to R70). -/

theorem test_assemble_comment : assemble "CRC_BYTE ';' ; feed 0x3B\n\n STATUS_READ".toList =
    .ok [0x30000003B#36, 0x900000000#36] := by decide
theorem test_assemble_decimal : assembleLine "CRC_BYTE 97".toList = .ok [.crcByte 0x61#8] := by decide
theorem test_assemble_does_not_fit : assembleLine "CRC_BYTE 256".toList = .error .valueDoesNotFit := by decide
theorem test_assemble_lower_case : assembleLine "nop".toList = .error .unknownMnemonic := by decide
theorem test_assemble_defined_as_reserved : assembleLine "RSVD 0xA".toList = .error .notReserved := by decide
theorem test_assemble_trailing : assembleLine "NOP 0".toList = .error .trailingText := by decide

/-- R70, with the escape of CRC-14's data. -/
theorem test_assemble_chunk : assembleLine "CRC_CHUNK \"IHDR\", \"\\x00\\x00\\x00\\x01\\x08\"".toList =
    .ok [.crcInit, .crcWord 0x49484452#32, .crcWord 0x00000001#32, .crcByte 0x08#8] := by decide

/-! The TypeCode predicates (section 2.1 of the vectors) and the CRC function (sections 2.3 and 2.4). -/

theorem test_alpha_boundaries :
    [0x00, 0x40, 0x41, 0x5A, 0x5B, 0x60, 0x61, 0x7A, 0x7B, 0x31, 0x80, 0xC1, 0xE1, 0xFF].map (fun n => alpha (BitVec.ofNat 8 n)) =
      [false, false, true, true, false, false, true, true, false, false, false, false, false, false] := by decide
theorem test_flag_bit :
    [0x00, 0x40, 0x41, 0x5A, 0x5B, 0x60, 0x61, 0x7A, 0x7B, 0x31, 0x80, 0xC1, 0xE1, 0xFF].map (fun n => flagBit (BitVec.ofNat 8 n)) =
      [false, false, false, false, false, true, true, true, true, true, false, false, true, true] := by decide

/-- The bit-level trace of section 2.3, its third and last values. -/
theorem test_crcBitSteps_trace : crcBitSteps 3 0xFFFFFFFF#32 = 0xBFF51D87#32 ∧ crcByte 0xFFFFFFFF#32 0x00#8 = 0x2DFD1072#32 := by
  decide
theorem test_crcTable : crcTable 0x01#8 = 0x77073096#32 ∧ crcTable 0x80#8 = 0xEDB88320#32 ∧ crcTable 0xFF#8 = 0x2D02EF8D#32 := by
  decide
/-- CRC-05, the check value. -/
theorem test_crc32_check : crc32 [0x31#8, 0x32#8, 0x33#8, 0x34#8, 0x35#8, 0x36#8, 0x37#8, 0x38#8, 0x39#8] = 0xCBF43926#32 := by
  decide
/-- CRC-14. -/
theorem test_crc32_ihdr : chunkChecksum [0x49#8, 0x48#8, 0x44#8, 0x52#8]
    [0x00#8, 0x00#8, 0x00#8, 0x01#8, 0x00#8, 0x00#8, 0x00#8, 0x01#8, 0x08#8, 0x06#8, 0x00#8, 0x00#8, 0x00#8] =
      0x1F15C489#32 := by decide
/-- R100: 0x04C11DB7 is the polynomial bit-reversed. -/
theorem test_crcPoly_reversed : crcPoly.reverse = 0x04C11DB7#32 := by decide
/-- R45's example. -/
theorem test_wireBytes : wireBytes 0xAE426082#32 = [0xAE#8, 0x42#8, 0x60#8, 0x82#8] := by decide

/-! One step from a block, the word on the port (section 2.5 of the vectors). -/

/-- The block and the response after one step that finds the word on the port. -/
def stepFrom (crc : Word) (m i : Bool) (w : CommandWord) : Option (Block × Option Word) :=
  match step { State.reset with block := ⟨crc, m, i⟩, pending := [.command w] } with
  | .next t => some (t.block, t.rsp)
  | .fault _ => none
  | .refused _ => none

/-- CMD-18. -/
theorem test_nop : stepFrom 0xAAAAAAAA#32 true true 0x000000000#36 = some (⟨0xAAAAAAAA#32, true, true⟩, some 0#32) := by decide
/-- TC-02: the discriminating case of 90_conflicts.md C1. -/
theorem test_tcEval_Rust : stepFrom 0x12345678#32 true false 0x152757374#36 =
    some (⟨0x12345678#32, true, false⟩, some 0x00000F13#32) := by decide
/-- TC-12: byte 3 not alphabetic. -/
theorem test_tcEval_Ru1t : stepFrom 0#32 false true 0x152753174#36 = some (⟨0#32, false, true⟩, some 0x00000B12#32) := by decide
/-- CMD-01. -/
theorem test_crcInit : stepFrom 0x12345678#32 true true 0x200000000#36 = some (⟨0xFFFFFFFF#32, true, true⟩, some 0#32) := by decide
/-- CMD-02. -/
theorem test_crcInit_ignored : stepFrom 0x12345678#32 false false 0x2DEADBEEF#36 = some (⟨0xFFFFFFFF#32, false, false⟩, some 0#32) := by
  decide
/-- CMD-04. -/
theorem test_crcByte_ignored : stepFrom 0xFFFFFFFF#32 false false 0x3FFFFFF61#36 = some (⟨0x174841BC#32, false, false⟩, some 0#32) := by
  decide
/-- CMD-05. -/
theorem test_crcByte : stepFrom 0x2DFD1072#32 false false 0x300000061#36 = some (⟨0x8493BCCE#32, false, false⟩, some 0#32) := by decide
/-- CMD-06. -/
theorem test_crcWord : stepFrom 0xFFFFFFFF#32 false false 0x449454E44#36 = some (⟨0x51BD9F7D#32, false, false⟩, some 0#32) := by decide
/-- CMD-08. -/
theorem test_crcWord_ones : stepFrom 0xFFFFFFFF#32 false false 0x4FFFFFFFF#36 = some (⟨0x00000000#32, false, false⟩, some 0#32) := by
  decide
/-- CMD-09. -/
theorem test_crcRead : stepFrom 0x51BD9F7D#32 false false 0x500000000#36 = some (⟨0x51BD9F7D#32, false, false⟩, some 0xAE426082#32) := by
  decide
/-- CMD-13: the raw register is not the checksum. -/
theorem test_crcCheck_raw : stepFrom 0x51BD9F7D#32 true false 0x651BD9F7D#36 = some (⟨0x51BD9F7D#32, false, false⟩, some 0#32) := by
  decide
/-- CMD-14. -/
theorem test_crcCheck_empty : stepFrom 0xFFFFFFFF#32 false true 0x600000000#36 = some (⟨0xFFFFFFFF#32, true, true⟩, some 1#32) := by
  decide
/-- CMD-15. -/
theorem test_crcStateRead : stepFrom 0x641C1F5C#32 false false 0x700000000#36 =
    some (⟨0x641C1F5C#32, false, false⟩, some 0x641C1F5C#32) := by decide
/-- CMD-16. -/
theorem test_crcStateWrite : stepFrom 0x00000000#32 true false 0x812345678#36 = some (⟨0x12345678#32, true, false⟩, some 0#32) := by
  decide
/-- CMD-20. -/
theorem test_statusRead_match : stepFrom 0xAAAAAAAA#32 true false 0x900000000#36 = some (⟨0xAAAAAAAA#32, true, false⟩, some 1#32) := by
  decide
/-- R133's example: ILLEGAL alone reads 2. -/
theorem test_statusRead_illegal : stepFrom 0xAAAAAAAA#32 false true 0x900000000#36 = some (⟨0xAAAAAAAA#32, false, true⟩, some 2#32) := by
  decide
/-- CMD-21. -/
theorem test_statusClear : stepFrom 0xAAAAAAAA#32 true true 0xA00000000#36 = some (⟨0xAAAAAAAA#32, false, false⟩, some 0#32) := by decide
/-- CMD-22. -/
theorem test_rsvd0xB : stepFrom 0xAAAAAAAA#32 true false 0xB00000000#36 = some (⟨0xAAAAAAAA#32, true, true⟩, some 0#32) := by decide
/-- P4's second line: no byte is fed. -/
theorem test_rsvd0xC : stepFrom 0x174841BC#32 false false 0xC00000062#36 = some (⟨0x174841BC#32, false, true⟩, some 0#32) := by decide
theorem test_rsvd0xD : stepFrom 0x174841BC#32 true false 0xD00000000#36 = some (⟨0x174841BC#32, true, true⟩, some 0#32) := by decide
/-- P4: ILLEGAL stays 1. -/
theorem test_rsvd0xE : stepFrom 0x174841BC#32 true true 0xE00000000#36 = some (⟨0x174841BC#32, true, true⟩, some 0#32) := by decide
/-- CMD-23. -/
theorem test_rsvd0xF : stepFrom 0xAAAAAAAA#32 false true 0xF00000061#36 = some (⟨0xAAAAAAAA#32, false, true⟩, some 0#32) := by decide

/-- CMD-25, from a machine with every bit otherwise. -/
theorem test_reset : performEvent .reset ⟨⟨0#32, true, true⟩, [], some 7#32, 3⟩ = .next ⟨⟨0xFFFFFFFF#32, false, false⟩, [], none, 3⟩ := rfl
/-- R162: the block is reset whatever the overtaken command was. -/
theorem test_overtaken_block (w : CommandWord) : (State.overtake (State.reset.present w)).block = ⟨0xFFFFFFFF#32, false, false⟩ := rfl
/-- The word of a row, presented after reset, is the first thing the next step performs. -/
theorem test_withFetchWord : (State.reset.withFetchWord 36 0x300000061).pending = [.command 0x300000061#36] := by decide
theorem test_withFetchWord_wide : State.reset.withFetchWord 40 0x1300000061 = State.reset := by decide

/-! The conditions (R141, R145) and the host's reading (R89). -/

theorem test_conditions_tcEval : conditionsOf (.tcEval 0x52753174#32) Block.reset = [.tcNotWf, .tcNotValid] ∧
    reportedCondition (.tcEval 0x52753174#32) Block.reset = some .tcNotWf := by decide
theorem test_conditions_reserved_bit : conditionsOf (.tcEval 0x52757374#32) Block.reset = [.tcNotValid] := by decide
theorem test_conditions_mismatch : conditionsOf (.crcCheck 1#32) Block.reset = [.crcMismatch] := by decide
theorem test_readTypeCode : [0x00000F3B, 0x00000F13, 0x00000B12].map (fun n => readTypeCode (BitVec.ofNat 32 n)) =
    [.valid, .notAValidChunkType, .invalidTypeCode] := by decide

/-! Witnesses: concrete values that meet the hypotheses of each obligation that has some. -/

theorem witness_EncodeOfDecodeClearsIgnoredBits : isCanonical 0x300000061#36 = true := by decide
theorem witness_IgnoredArgBitsHaveNoEffect_same_command :
    cmdOf 0x3FFFFFF61#36 = cmdOf 0x300000061#36 ∧
      argOf 0x3FFFFFF61#36 &&& (formOf (decode 0x3FFFFFF61#36)).used =
        argOf 0x300000061#36 &&& (formOf (decode 0x3FFFFFF61#36)).used := by decide
theorem witness_IgnoredArgBitsHaveNoEffect_defined : (decode 0xAFFFFFFFF#36).isReserved = false := by decide
theorem witness_IgnoredArgBitsHaveNoEffect_assembled : assemble "CRC_BYTE 255".toList = .ok [0x3000000FF#36] := by decide
/-- The boundary of each operand width, read after the mnemonic. -/
theorem witness_AssemblerAcceptsExactlyFittingNumbers :
    readLiteral (skipBlanks " 255 ; c".toList) = .ok (.number 255, " ; c".toList) ∧
      readLiteral (skipBlanks " 256".toList) = .ok (.number 256, []) ∧
      readLiteral (skipBlanks " 0xFFFFFFFF".toList) = .ok (.number 0xFFFFFFFF, []) ∧
      readLiteral (skipBlanks " 0x100000000".toList) = .ok (.number 0x100000000, []) := by decide
theorem witness_EveryWordDecodesToExactlyOneRow :
    ⟨"RSVD_0xF", 0xF00000000#36, 0xF00000000#36⟩ ∈ opcodeTable ∧
      OpcodeRow.accepts ⟨"RSVD_0xF", 0xF00000000#36, 0xF00000000#36⟩ 0xFFFFFFFFF#36 = true := by decide
/-- The port holds two commands. -/
def twoCommands : State := { State.reset with pending := [.command 0x200000000#36, .command 0x500000000#36] }
theorem witness_StepRunsTheDecodedCommand : twoCommands.pending = .command 0x200000000#36 :: [.command 0x500000000#36] := rfl
theorem witness_StepRunsTheDecodedCommand_idle : State.reset.pending = [] := rfl
theorem witness_EveryCommandCompletes :
    twoCommands.pending = .command 0x200000000#36 :: .command 0x500000000#36 :: [] := rfl
theorem witness_EveryCommandCompletes_event : twoCommands.pending ≠ [] := by decide
theorem witness_StepsFollowTheIssueOrder :
    twoCommands.pending = [.command 0x200000000#36] ++ [.command 0x500000000#36] := rfl
theorem witness_NoHiddenStateReachesTheHost : twoCommands.block = State.reset.block ∧ twoCommands ≠ State.reset := by decide
/-- A machine with both STATUS bits set. -/
def statusSet : State := { State.reset with block := { Block.reset with statusMatch := true, statusIllegal := true } }
theorem witness_StatusReachesOnlyStatusRead :
    statusSet.block.crc = State.reset.block.crc ∧ statusSet.block ≠ State.reset.block ∧ Instr.crcRead ≠ .statusRead := by decide
theorem witness_RepeatingACommand_reading : writesNothing .crcRead = true := by decide
theorem witness_RepeatingACommand_idempotent : writesNothing (.crcCheck 0#32) = false ∧ fedBytes (.crcCheck 0#32) = [] := by decide
theorem witness_RepeatingACommand_feeding : fedBytes (.crcByte 0#8) ≠ [] ∧ fedBytes (.crcWord 0xFFFFFFFF#32) ≠ [] := by decide
theorem witness_TypeCodePredicates_high : 0x80 ≤ (0xC1#8).toNat := by decide
theorem witness_TypeCodePredicates_letter : alpha 0x5A#8 = true ∧ alpha 0x61#8 = true := by decide
theorem witness_TypeCodePredicates_wellFormed : wellFormedCode 0x52757374#32 = true := by decide
theorem witness_TypeCodePredicates_notWellFormed : wellFormedCode 0x52753174#32 = false := by decide
theorem witness_TcEvalAnswersTheFlagWord : (flagWord 0#32).getLsbD 0 = false := by decide
theorem witness_CrcCheckComparesTheFinalCrc : (0x00000000#32 : Word) = State.reset.block.crc ^^^ 0xFFFFFFFF#32 := by decide
theorem witness_StatusReadShowsTheTwoBits : (0x00000000#32 : Word) = statusSet.block.crc ^^^ 0xFFFFFFFF#32 := by decide
theorem witness_MatchHoldsTheLastCheck : ∀ e ∈ [issue .crcInit, issue .rsvd0xF, issue (.crcByte 0#8)], keepsMatch e = true := by
  decide
theorem witness_IllegalIsSticky : Instr.rsvd0xB.isReserved = true ∧ (Instr.crcCheck 0#32).isReserved = false ∧
    Instr.crcCheck 0#32 ≠ .statusClear := by decide
theorem witness_StatusAuditsTheSequence : ∀ i ∈ [Instr.crcInit, .rsvd0xC, .statusRead], i ≠ .statusClear := by decide
theorem witness_StepKeepsAuditClean :
    AuditClean twoCommands ∧ ∃ t, step twoCommands = .next t ∧ t.pending = [.command 0x500000000#36] :=
  ⟨⟨rfl, by decide⟩, _, rfl, rfl⟩
/-- STATUS.ILLEGAL is set and a NOP is on the port. -/
def illegalThenNop : State := { statusSet with pending := [.command 0x000000000#36] }
theorem witness_StepKeepsIllegalStuck : IllegalStuck illegalThenNop ∧ ∃ t, step illegalThenNop = .next t :=
  ⟨⟨rfl, by decide⟩, _, rfl⟩
/-- A reset is on the port of a machine with both STATUS bits set. -/
def aboutToReset : State := { statusSet with pending := [.reset] }
theorem witness_ResetSetsEveryElement : aboutToReset.pending = .reset :: [] ∧ State.reset.block = Block.reset := by decide
theorem witness_BootDutyHidesThePowerOnState :
    bootDuty [.powerCycle, .reset, .command 0x300000061#36, .powerCycle, .reset] = true ∧
      ({ State.reset with draws := 5 } : State).block = State.reset.block := by decide
theorem witness_BootDutyHidesThePowerOnState_event :
    [HostEvent.powerCycle, .reset, .command 0x500000000#36] = [.powerCycle, .reset] ++ .command 0x500000000#36 :: [] ∧
      bootDuty [HostEvent.powerCycle, .reset, .command 0x500000000#36] = true ∧
      ∀ w, HostEvent.command 0x500000000#36 ≠ .overtakenCommand w := by
  refine ⟨by decide, by decide, fun _ h => by cases h⟩
theorem witness_BootDutyHidesThePowerOnState_overtaken : bootDuty [HostEvent.overtakenCommand 0x500000000#36] = true := by
  decide
theorem witness_RegisterHoldsTheRunningCrc :
    ∀ i ∈ [Instr.crcByte 0x61#8, .rsvd0xF, .crcWord 0x49454E44#32, .statusClear], setsCrc i = false := by decide
theorem witness_MixedWidthsAgree :
    (∀ i ∈ [Instr.crcWord 0x49454E44#32], fedBytes i ≠ []) ∧
      (∀ i ∈ [Instr.crcByte 0x49#8, .crcByte 0x45#8, .crcByte 0x4E#8, .crcByte 0x44#8], fedBytes i ≠ []) ∧
      [Instr.crcWord 0x49454E44#32].flatMap fedBytes =
        [Instr.crcByte 0x49#8, .crcByte 0x45#8, .crcByte 0x4E#8, .crcByte 0x44#8].flatMap fedBytes := by decide
theorem witness_ConditionsAreRecorded :
    .illegalCmd ∈ conditionsOf .rsvd0xB Block.reset ∧ .crcMismatch ∈ conditionsOf (.crcCheck 1#32) Block.reset ∧
      .tcNotWf ∈ conditionsOf (.tcEval 0#32) Block.reset ∧ .tcNotValid ∈ conditionsOf (.tcEval 0x52757374#32) Block.reset ∧
      (flagWord 0x52757374#32).getLsbD 0 = true := by decide
theorem witness_ConditionPriority :
    .tcNotWf ∈ conditionsOf (.tcEval 0#32) Block.reset ∧ conditionsOf (.tcEval 0x52757374#32) Block.reset ≠ [] := by decide
theorem witness_TwoErrorKindsAreTheBlocks :
    ErrorKind.blockForm .invalidTypeCode = some .tcNotWf ∧ ErrorKind.blockForm .checksumMismatch = some .crcMismatch := by decide

end Sys2Proof.Tests
end

section
/-! The step of the machine on its port: what it does with an event at the head, and with none. -/

namespace Sys2Proof.Machine

/-- R51: a step takes the oldest pending event off the port and performs it. -/
theorem step_of_pending_cons (s : State) (e : HostEvent) (rest : List HostEvent) (h : s.pending = e :: rest) :
    step s = performEvent e { s with pending := rest } :=
  takeEvent_cons s e rest h

/-- R12, R49: with a command word at the head of the port, a step is that command's performance. -/
theorem step_of_pending_command (s : State) (w : CommandWord) (rest : List HostEvent)
    (h : s.pending = .command w :: rest) : step s = exec (decode w) { s with pending := rest } := by
  rw [step_of_pending_cons s _ rest h, performEvent_command]

/-- The model's choice (log 2): an idle step holds the state. -/
theorem step_of_pending_nil (s : State) (h : s.pending = []) : step s = .next s :=
  takeEvent_nil s h

/-- Settles O8: the two cases of the port, a command word at its head and nothing pending. -/
theorem stepRunsTheDecodedCommand : Obligations.StepRunsTheDecodedCommand :=
  ⟨step_of_pending_command, step_of_pending_nil⟩

end Sys2Proof.Machine
end

section
/-! What one command does, said once for all commands: each element of the next block and the response, as functions of
the command and the block (10_state.md R22 to R28). -/

namespace Sys2Proof.Machine

/-- `crc` after a command (R22): a function of the command and of `crc` alone. -/
def nextCrc (i : Instr) (c : Word) : Word :=
  match i with
  | .crcInit => crcSeed
  | .crcByte d => crcByte c d
  | .crcWord arg => crcWord c arg
  | .crcStateWrite v => v
  | _ => c

/-- STATUS.MATCH after a command (R24). -/
def nextMatch (i : Instr) (b : Block) : Bool :=
  match i with
  | .crcCheck checksum => checksumMatches b.crc checksum
  | .statusClear => false
  | _ => b.statusMatch

/-- STATUS.ILLEGAL after a command (R25): a function of the command and of STATUS.ILLEGAL alone. -/
def nextIllegal (i : Instr) (illegal : Bool) : Bool :=
  if i.isReserved then true else if i = .statusClear then false else illegal

/-- The block after a command: nothing but the triple is read or written (R20, R28). -/
def nextBlock (i : Instr) (b : Block) : Block :=
  { crc := nextCrc i b.crc, statusMatch := nextMatch i b, statusIllegal := nextIllegal i b.statusIllegal }

@[simp] theorem nextBlock_crc (i : Instr) (b : Block) : (nextBlock i b).crc = nextCrc i b.crc := rfl
@[simp] theorem nextBlock_statusMatch (i : Instr) (b : Block) : (nextBlock i b).statusMatch = nextMatch i b := rfl
@[simp] theorem nextBlock_statusIllegal (i : Instr) (b : Block) :
    (nextBlock i b).statusIllegal = nextIllegal i b.statusIllegal := rfl

/-- The response of a command (R28). -/
def response (i : Instr) (b : Block) : Word :=
  match i with
  | .tcEval arg => flagWord arg
  | .crcRead => crcFinal b.crc
  | .crcCheck checksum => (bit (checksumMatches b.crc checksum)).setWidth 32
  | .crcStateRead => b.crc
  | .statusRead => b.statusWord
  | _ => 0#32

/-- Every command completes, with the block and the response that the triple and the command decide. -/
theorem exec_eq_completed (i : Instr) (s : State) : exec i s = completed s (nextBlock i s.block) (response i s.block) := by
  cases i <;> rfl

theorem nextCrc_of_not_setsCrc {i : Instr} (h : setsCrc i = false) (c : Word) : nextCrc i c = crcFold c (fedBytes i) := by
  cases i with
  | crcInit | crcStateWrite => cases h
  | crcWord arg => exact crcWord_eq_crcFold c arg
  | _ => rfl

theorem nextMatch_of_not_writesMatch {i : Instr} (h : writesMatch i = false) (b : Block) :
    nextMatch i b = b.statusMatch := by
  cases i with
  | crcCheck | statusClear => cases h
  | _ => rfl

theorem nextMatch_crcCheck (checksum : Word) (b : Block) :
    nextMatch (.crcCheck checksum) b = decide (crcFinal b.crc = checksum) :=
  beq_eq_decide _ _

theorem nextIllegal_of_isReserved {i : Instr} (h : i.isReserved = true) (illegal : Bool) : nextIllegal i illegal = true := by
  simp [nextIllegal, h]

@[simp] theorem nextIllegal_statusClear (illegal : Bool) : nextIllegal .statusClear illegal = false := rfl

theorem nextIllegal_of_other {i : Instr} (hr : i.isReserved = false) (hc : i ≠ .statusClear) (illegal : Bool) :
    nextIllegal i illegal = illegal := by
  simp [nextIllegal, hr, hc]

theorem nextIllegal_false_of_not_isReserved {i : Instr} (h : i.isReserved = false) : nextIllegal i false = false := by
  simp [nextIllegal, h]

theorem nextIllegal_true_of_ne_statusClear {i : Instr} (h : i ≠ .statusClear) : nextIllegal i true = true := by
  simp [nextIllegal, h]

/-- R28: of the block, every response but STATUS_READ's reads `crc` alone. -/
theorem response_congr_of_crc_eq {i : Instr} (hi : i ≠ .statusRead) {b b' : Block} (h : b.crc = b'.crc) :
    response i b = response i b' := by
  cases i with
  | statusRead => exact absurd rfl hi
  | crcRead => exact congrArg crcFinal h
  | crcCheck checksum => exact congrArg (fun c => (bit (checksumMatches c checksum)).setWidth 32) h
  | crcStateRead => exact h
  | _ => rfl

/-- The machine after a command. -/
def afterCommand (i : Instr) (s : State) : State :=
  { s with block := nextBlock i s.block, rsp := some (response i s.block) }

@[simp] theorem exec_eq_next (i : Instr) (s : State) : exec i s = .next (afterCommand i s) := exec_eq_completed i s

section
variable (i : Instr) (s : State)

@[simp] theorem afterCommand_block : (afterCommand i s).block = nextBlock i s.block := rfl
@[simp] theorem afterCommand_rsp : (afterCommand i s).rsp = some (response i s.block) := rfl
@[simp] theorem afterCommand_pending : (afterCommand i s).pending = s.pending := rfl

end

theorem afterCommand_rsp_congr (i : Instr) {s s' : State} (h : s.block = s'.block) :
    (afterCommand i s).rsp = (afterCommand i s').rsp := by
  rw [afterCommand_rsp, afterCommand_rsp, h]

/-- Settles O11: the block after and the response are `nextBlock` and `response`, functions of the block before. -/
theorem noHiddenStateReachesTheHost : Obligations.NoHiddenStateReachesTheHost := fun i s s' h =>
  ⟨nextBlock i s.block, response i s.block, exec_eq_completed i s, h ▸ exec_eq_completed i s'⟩

/-- Settles O12: the next `crc` and every response but STATUS_READ's are functions of `crc`. -/
theorem statusReachesOnlyStatusRead : Obligations.StatusReachesOnlyStatusRead := fun i s s' h =>
  ⟨afterCommand i s, afterCommand i s', exec_eq_next i s, exec_eq_next i s', congrArg (nextCrc i) h,
    fun hi => congrArg some (response_congr_of_crc_eq hi h)⟩

/-- Settles O31: the three cases of `nextIllegal`, and the reset. -/
theorem illegalIsSticky : Obligations.IllegalIsSticky := by
  refine ⟨fun i s => ⟨afterCommand i s, exec_eq_next i s, fun h => ?_, fun h => ?_, fun hr hc => ?_⟩,
    fun s => ⟨_, performEvent_reset s, rfl⟩⟩
  · exact nextIllegal_of_isReserved h _
  · subst h
    exact nextIllegal_statusClear s.block.statusIllegal
  · exact nextIllegal_of_other hr hc _

end Sys2Proof.Machine
end

section
/-! What one event and a sequence of events do: no event stops the machine, so both are functions of the state. -/

namespace Sys2Proof.Machine

/-- The machine after one event of the host. -/
def afterEvent (e : HostEvent) (s : State) : State :=
  match e with
  | .command w => afterCommand (decode w) s
  | .reset => s.resetBlock
  | .overtakenCommand w => (afterCommand (decode w) s).overtake
  | .powerCycle => s.losePower

theorem performEvent_eq_next (e : HostEvent) (s : State) : performEvent e s = .next (afterEvent e s) := by
  cases e <;> simp [afterEvent]

@[simp] theorem afterEvent_pending (e : HostEvent) (s : State) : (afterEvent e s).pending = s.pending := by
  cases e <;> rfl

/-- The machine after a sequence of events. -/
def afterEvents : List HostEvent → State → State
  | [], s => s
  | e :: es, s => afterEvents es (afterEvent e s)

@[simp] theorem afterEvents_nil (s : State) : afterEvents [] s = s := rfl
@[simp] theorem afterEvents_cons (e : HostEvent) (es : List HostEvent) (s : State) :
    afterEvents (e :: es) s = afterEvents es (afterEvent e s) := rfl

@[simp] theorem afterEvents_append (es fs : List HostEvent) (s : State) :
    afterEvents (es ++ fs) s = afterEvents fs (afterEvents es s) := by
  induction es generalizing s with
  | nil => rfl
  | cons e es ih => exact ih _

theorem performAll_eq_next (es : List HostEvent) (s : State) : performAll es s = .next (afterEvents es s) := by
  induction es generalizing s with
  | nil => rfl
  | cons e es ih => simp [performEvent_eq_next, ih]

/-- R60 to R64: the decoder reads a command's canonical word as that command. -/
@[simp] theorem decode_encode (i : Instr) : decode (encode i) = i := by
  rw [encode, decode_commandWord]
  cases i with
  | crcByte d => exact congrArg Instr.crcByte (byte4_setWidth d)
  | _ => rfl

@[simp] theorem afterEvent_issue (i : Instr) (s : State) : afterEvent (issue i) s = afterCommand i s := by
  simp [issue, afterEvent]

/-- What a step can do: hold the state of an idle port, or perform the oldest event and take it off the port. -/
theorem step_eq_next_cases {s t : State} (h : step s = .next t) :
    (s.pending = [] ∧ t = s) ∨ ∃ e rest, s.pending = e :: rest ∧ t = afterEvent e { s with pending := rest } := by
  cases hp : s.pending with
  | nil =>
    rw [step_of_pending_nil s hp] at h
    exact .inl ⟨rfl, by cases h; rfl⟩
  | cons e rest =>
    rw [step_of_pending_cons s e rest hp, performEvent_eq_next] at h
    exact .inr ⟨e, rest, rfl, by cases h; rfl⟩

/-- A property of the block that every admitted event keeps is kept by every step, while all that is pending is
admitted. -/
theorem step_keeps {P : Block → Prop} {admitted : HostEvent → Bool}
    (keeps : ∀ e s, admitted e = true → P s.block → P (afterEvent e s).block) {s t : State}
    (block : P s.block) (pending : ∀ e ∈ s.pending, admitted e = true) (h : step s = .next t) :
    P t.block ∧ ∀ e ∈ t.pending, admitted e = true := by
  obtain ⟨-, rfl⟩ | ⟨e, rest, hp, rfl⟩ := step_eq_next_cases h
  · exact ⟨block, pending⟩
  · rw [hp, List.forall_mem_cons] at pending
    obtain ⟨he, hrest⟩ := pending
    exact ⟨keeps e _ he block, by simpa using hrest⟩

end Sys2Proof.Machine
end

section
/-! STATUS.ILLEGAL along the steps of the machine, and the reset (10_state.md R25, R29; 70_reset_and_hazards.md R160,
R161). -/

namespace Sys2Proof.Machine

theorem afterEvent_statusIllegal_of_cannotSet (e : HostEvent) (s : State) (he : cannotSetIllegal e = true)
    (h : s.block.statusIllegal = false) : (afterEvent e s).block.statusIllegal = false := by
  cases e with
  | command w =>
    have hr : (decode w).isReserved = false := by simpa [cannotSetIllegal] using he
    simp [afterEvent, h, nextIllegal_false_of_not_isReserved hr]
  | reset | overtakenCommand => rfl
  | powerCycle => cases he

theorem afterEvent_statusIllegal_of_cannotClear (e : HostEvent) (s : State) (he : cannotClearIllegal e = true)
    (h : s.block.statusIllegal = true) : (afterEvent e s).block.statusIllegal = true := by
  cases e with
  | command w =>
    have hc : decode w ≠ .statusClear := by simpa [cannotClearIllegal] using he
    simp [afterEvent, h, nextIllegal_true_of_ne_statusClear hc]
  | reset | overtakenCommand | powerCycle => cases he

/-- Settles O33: no event that cannot set STATUS.ILLEGAL sets it. -/
theorem stepKeepsAuditClean : Obligations.StepKeepsAuditClean := fun _ _ ⟨clear, pending⟩ h =>
  step_keeps (P := fun b => b.statusIllegal = false) afterEvent_statusIllegal_of_cannotSet clear pending h

/-- Settles O35: no event that cannot clear STATUS.ILLEGAL clears it. -/
theorem stepKeepsIllegalStuck : Obligations.StepKeepsIllegalStuck := fun _ _ ⟨illegal, pending⟩ h =>
  step_keeps (P := fun b => b.statusIllegal = true) afterEvent_statusIllegal_of_cannotClear illegal pending h

/-- Settles O34: R29's value of STATUS.ILLEGAL, and an empty port. -/
theorem resetIsAuditClean : Obligations.ResetIsAuditClean :=
  ⟨Block.reset_statusIllegal, fun _ h => absurd h List.not_mem_nil⟩

@[simp] theorem Block.reset_statusWord : Block.reset.statusWord = 0#32 := by decide

/-- Settles O36: the step performs the reset event, which writes every element and drops the response. -/
theorem resetSetsEveryElement : Obligations.ResetSetsEveryElement := by
  refine ⟨fun s rest hp => ?_, fun s => rfl, fun s hs => ?_, rfl⟩
  · rw [step_of_pending_cons s _ rest hp, performEvent_reset]
    rfl
  · rw [hs, Block.reset_statusWord]

end Sys2Proof.Machine
end

section
/-! STATUS.MATCH along a sequence of events (10_state.md R24). -/

namespace Sys2Proof.Machine

theorem afterEvent_statusMatch_of_keepsMatch {e : HostEvent} (he : keepsMatch e = true) (s : State) :
    (afterEvent e s).block.statusMatch = s.block.statusMatch := by
  cases e with
  | command w =>
    have hw : writesMatch (decode w) = false := by simpa [keepsMatch] using he
    exact nextMatch_of_not_writesMatch hw s.block
  | reset | overtakenCommand | powerCycle => cases he

theorem afterEvents_statusMatch_of_keepsMatch {es : List HostEvent} (hes : ∀ e ∈ es, keepsMatch e = true) (s : State) :
    (afterEvents es s).block.statusMatch = s.block.statusMatch := by
  induction es generalizing s with
  | nil => rfl
  | cons e es ih =>
    obtain ⟨he, hes⟩ := List.forall_mem_cons.mp hes
    rw [afterEvents_cons, ih hes, afterEvent_statusMatch_of_keepsMatch he]

/-- Settles O30: the first event gives STATUS.MATCH its value, and the events after it keep that value. -/
theorem matchHoldsTheLastCheck : Obligations.MatchHoldsTheLastCheck := by
  refine ⟨fun checksum es s hes => ⟨_, performAll_eq_next _ s, ?_⟩,
    fun e he es s hes => ⟨_, performAll_eq_next _ s, ?_⟩, fun d arg v i hi => ?_⟩
  · rw [afterEvents_cons, afterEvents_statusMatch_of_keepsMatch hes, afterEvent_issue, afterCommand_block,
      nextBlock_statusMatch, nextMatch_crcCheck]
  · rw [afterEvents_cons, afterEvents_statusMatch_of_keepsMatch hes]
    obtain rfl | rfl : e = .reset ∨ e = issue .statusClear := by simpa using he
    · rfl
    · rw [afterEvent_issue]
      rfl
  · obtain rfl | rfl | rfl | rfl : i = .crcInit ∨ i = .crcByte d ∨ i = .crcWord arg ∨ i = .crcStateWrite v := by
      simpa using hi
    all_goals simp [issue, keepsMatch, writesMatch]

end Sys2Proof.Machine
end

section
/-! The boot duty (10_state.md R30, 70_reset_and_hazards.md R164): the two machines may differ in their blocks only
between a power cycle and the reset that follows it at once, and no command is performed there. -/

namespace Sys2Proof.Machine

theorem bootDuty_cons_of_ne_powerCycle {e : HostEvent} (he : e ≠ .powerCycle) (es : List HostEvent) :
    bootDuty (e :: es) = bootDuty es := by
  cases e with
  | powerCycle => exact absurd rfl he
  | command | reset | overtakenCommand => rfl

theorem bootDuty_powerCycle_cons {es : List HostEvent} (h : bootDuty (.powerCycle :: es) = true) :
    ∃ es', es = .reset :: es' := by
  cases es with
  | nil => cases h
  | cons e es' =>
    cases e with
    | reset => exact ⟨es', rfl⟩
    | command | overtakenCommand | powerCycle => cases h

theorem afterEvent_block_congr {e : HostEvent} (he : e ≠ .powerCycle) {s s' : State} (h : s.block = s'.block) :
    (afterEvent e s).block = (afterEvent e s').block := by
  cases e with
  | command w => exact congrArg (nextBlock (decode w)) h
  | reset | overtakenCommand => rfl
  | powerCycle => exact absurd rfl he

theorem afterEvents_block_congr_of_bootDuty {es : List HostEvent} (hes : bootDuty es = true) {s s' : State}
    (h : s.block = s'.block) : (afterEvents es s).block = (afterEvents es s').block := by
  induction es using bootDuty.induct generalizing s s' with
  | case1 => exact h
  | case2 es ih => exact ih hes rfl
  | case3 es noReset =>
    obtain ⟨es', h⟩ := bootDuty_powerCycle_cons hes
    exact (noReset es' h).elim
  | case4 e es _ he ih =>
    exact ih (bootDuty_cons_of_ne_powerCycle he es ▸ hes) (afterEvent_block_congr he h)

/-- Up to an event other than a reset, the boot duty has been met. -/
theorem bootDuty_of_append_cons {before after : List HostEvent} {e : HostEvent} (he : e ≠ .reset)
    (h : bootDuty (before ++ e :: after) = true) : bootDuty before = true := by
  induction before using bootDuty.induct with
  | case1 => rfl
  | case2 es ih => exact ih h
  | case3 es noReset =>
    obtain ⟨rest, hrest⟩ := bootDuty_powerCycle_cons h
    obtain ⟨-, hhead⟩ | ⟨es', rfl, -⟩ := List.append_eq_cons_iff.mp hrest
    · exact absurd (List.cons.inj hhead).1 he
    · exact (noReset es' rfl).elim
  | case4 head es _ hhead ih =>
    rw [List.cons_append, bootDuty_cons_of_ne_powerCycle hhead] at h
    rw [bootDuty_cons_of_ne_powerCycle hhead]
    exact ih h

/-- The responses two hosts hold after one event: after a command they agree, after an overtaken one they agree or one
host holds none, and after a reset or a power cycle neither holds any, whatever the blocks were. -/
theorem afterEvent_rsp_congr (e : HostEvent) {s s' : State}
    (h : e ≠ .reset → s.block = s'.block) :
    ((∀ w, e ≠ .overtakenCommand w) → (afterEvent e s).rsp = (afterEvent e s').rsp) ∧
      ((afterEvent e s).rsp = (afterEvent e s').rsp ∨ (afterEvent e s).rsp = none ∨ (afterEvent e s').rsp = none) := by
  cases e with
  | command w =>
    have same := afterCommand_rsp_congr (decode w) (h HostEvent.noConfusion)
    exact ⟨fun _ => same, .inl same⟩
  | reset | powerCycle => exact ⟨fun _ => rfl, .inl rfl⟩
  | overtakenCommand w =>
    refine ⟨fun hw => absurd rfl (hw w), ?_⟩
    have same := afterCommand_rsp_congr (decode w) (h HostEvent.noConfusion)
    obtain delivered | lost := State.overtake_rsp_cases (afterCommand (decode w) s)
    · obtain delivered' | lost' := State.overtake_rsp_cases (afterCommand (decode w) s')
      · exact .inl (delivered.trans (same.trans delivered'.symm))
      · exact .inr (.inr lost')
    · exact .inr (.inl lost)

/-- Settles O38: the blocks agree wherever the boot duty has been met, and it has been wherever a response can show. -/
theorem bootDutyHidesThePowerOnState : Obligations.BootDutyHidesThePowerOnState := by
  intro es s s' hes h
  refine ⟨⟨_, _, performAll_eq_next es s, performAll_eq_next es s', afterEvents_block_congr_of_bootDuty hes h⟩, ?_⟩
  rintro before e after rfl
  refine ⟨_, _, performAll_eq_next _ s, performAll_eq_next _ s', ?_⟩
  simp only [afterEvents_append, afterEvents_cons, afterEvents_nil]
  exact afterEvent_rsp_congr e fun he => afterEvents_block_congr_of_bootDuty (bootDuty_of_append_cons he hes) h

end Sys2Proof.Machine
end

section
/-! The CRC register along a sequence of commands (10_state.md R22, 41_crc.md R113). -/

namespace Sys2Proof.Machine

theorem crcFold_append (c : Word) (m n : List Byte) : crcFold c (m ++ n) = crcFold (crcFold c m) n := by
  induction m generalizing c with
  | nil => rfl
  | cons d m ih => exact ih _

theorem afterEvents_map_issue_crc (is : List Instr) (s : State) :
    (afterEvents (is.map issue) s).block.crc = is.foldl (fun c i => nextCrc i c) s.block.crc := by
  induction is generalizing s with
  | nil => rfl
  | cons i is ih => simp [ih]

theorem foldl_nextCrc_of_not_setsCrc {is : List Instr} (his : ∀ i ∈ is, setsCrc i = false) (c : Word) :
    is.foldl (fun c i => nextCrc i c) c = crcFold c (is.flatMap fedBytes) := by
  induction is generalizing c with
  | nil => rfl
  | cons i is ih =>
    obtain ⟨hi, his⟩ := List.forall_mem_cons.mp his
    rw [List.foldl_cons, List.flatMap_cons, crcFold_append, ih his, nextCrc_of_not_setsCrc hi]

/-- Settles O39: each command folds the bytes it feeds into the register. -/
theorem registerHoldsTheRunningCrc : Obligations.RegisterHoldsTheRunningCrc := fun is s his =>
  ⟨_, performAll_eq_next _ s, by rw [afterEvents_map_issue_crc, foldl_nextCrc_of_not_setsCrc his]⟩

/-- Settles O41: what a sequence of commands leaves in `crc` depends on `crc` alone, which CRC_STATE_WRITE restores. -/
theorem saveAndRestoreResumes : Obligations.SaveAndRestoreResumes := fun es is s => by
  refine ⟨s.block.crc, _, _, exec_eq_completed .crcStateRead s, performAll_eq_next _ s, performAll_eq_next _ s, ?_⟩
  have restored : (afterCommand (.crcStateWrite s.block.crc) (afterEvents es s)).block.crc = s.block.crc := rfl
  rw [afterEvents_append, afterEvents_cons, afterEvent_issue, afterEvents_map_issue_crc, afterEvents_map_issue_crc, restored]

end Sys2Proof.Machine
end

section
/-! The steps of the machine are the events in the order of issue (20_memory.md R51): what is still on the port reaches
nothing else. -/

namespace Sys2Proof.Machine

theorem afterEvent_with_pending (e : HostEvent) (s : State) (p : List HostEvent) :
    afterEvent e { s with pending := p } = { afterEvent e s with pending := p } := by
  cases e <;> rfl

theorem afterEvents_with_pending (es : List HostEvent) (s : State) (p : List HostEvent) :
    afterEvents es { s with pending := p } = { afterEvents es s with pending := p } := by
  induction es generalizing s with
  | nil => rfl
  | cons e es ih => simp [afterEvent_with_pending, ih]

/-- As many steps as there are events at the head of the port perform those and leave the rest on the port. -/
theorem steps_eq_next_of_pending_append (es rest : List HostEvent) (s : State) (hp : s.pending = es ++ rest) :
    steps es.length s = .next { afterEvents es s with pending := rest } := by
  induction es generalizing s with
  | nil =>
    subst hp
    rfl
  | cons e es ih =>
    have head : step s = .next (afterEvent e { s with pending := es ++ rest }) := by
      rw [step_of_pending_cons s e (es ++ rest) hp, performEvent_eq_next]
    have tail := ih (afterEvent e { s with pending := es ++ rest }) (afterEvent_pending _ _)
    rw [List.length_cons, steps, head, Result.andThen_next, tail]
    simp [afterEvent_with_pending, afterEvents_with_pending]

/-- Settles O10: steps, and the events performed with the rest or with nothing on the port, differ in the port alone. -/
theorem stepsFollowTheIssueOrder : Obligations.StepsFollowTheIssueOrder := fun es rest s hp =>
  ⟨{ afterEvents es s with pending := rest }, steps_eq_next_of_pending_append es rest s hp,
    by rw [performAll_eq_next, afterEvents_with_pending], rfl, by rw [performAll_eq_next, afterEvents_with_pending]⟩

end Sys2Proof.Machine
end

section
/-! The single-bit steps of the CRC function (41_crc.md R101): they compose, they are linear over GF(2), and a byte may
be fed to them one bit at a time (20_memory.md R42). -/

namespace Sys2Proof.Machine

theorem crcBitSteps_add (m n : Nat) (c : Word) : crcBitSteps (m + n) c = crcBitSteps n (crcBitSteps m c) := by
  induction m generalizing c with
  | zero => simp [crcBitSteps]
  | succ m ih => rw [Nat.succ_add, crcBitSteps, crcBitSteps, ih]

theorem crcBitSteps_succ_last (n : Nat) (c : Word) : crcBitSteps (n + 1) c = crcBitStep (crcBitSteps n c) :=
  crcBitSteps_add n 1 c

/-- One iteration of R101 with one bit of the byte still to enter: that bit is compared with bit 0 of the register. -/
def crcBitFeed (c : Word) (b : Bool) : Word :=
  if (c.getLsbD 0 ^^ b) = true then (c >>> 1) ^^^ crcPoly else c >>> 1

/-- Of a value that has entered the register an iteration consumes bit 0; the bits above it are shifted down unread. -/
theorem crcBitStep_xor_eq_crcBitFeed (c x : Word) :
    crcBitStep (c ^^^ x) = crcBitFeed c (x.getLsbD 0) ^^^ (x >>> 1) := by
  simp only [crcBitStep, crcBitFeed, BitVec.getLsbD_xor, BitVec.ushiftRight_xor_distrib]
  split
  · ac_rfl
  · rfl

theorem xor_xor_xor_same (a b p : Word) : (a ^^^ p) ^^^ (b ^^^ p) = a ^^^ b := by
  rw [BitVec.xor_comm b p, BitVec.xor_assoc, ← BitVec.xor_assoc p, BitVec.xor_self, BitVec.zero_xor]

/-- R114 (c) at one iteration: where bit 0 of both values is 1, the two polynomials cancel. -/
theorem crcBitStep_xor (a b : Word) : crcBitStep (a ^^^ b) = crcBitStep a ^^^ crcBitStep b := by
  simp only [crcBitStep, BitVec.getLsbD_xor, BitVec.ushiftRight_xor_distrib]
  cases a.getLsbD 0 <;> cases b.getLsbD 0
  case true.true => exact (xor_xor_xor_same _ _ _).symm
  case true.false =>
    simp only [Bool.xor_false, if_true, Bool.false_eq_true, if_false]
    ac_rfl
  case false.true => exact BitVec.xor_assoc _ _ _
  case false.false => rfl

theorem crcBitSteps_xor (n : Nat) (a b : Word) : crcBitSteps n (a ^^^ b) = crcBitSteps n a ^^^ crcBitSteps n b := by
  induction n generalizing a b with
  | zero => rfl
  | succ n ih => rw [crcBitSteps, crcBitStep_xor, ih, crcBitSteps, crcBitSteps]

/-- After `n` iterations the first `n` bits of a value that entered whole have been consumed, bit 0 first. -/
theorem crcBitSteps_xor_eq_foldl (n : Nat) (c x : Word) :
    crcBitSteps n (c ^^^ x) = (List.range n).foldl (fun c k => crcBitFeed c (x.getLsbD k)) c ^^^ (x >>> n) := by
  induction n with
  | zero => simp [crcBitSteps]
  | succ n ih =>
    rw [crcBitSteps_succ_last, ih, crcBitStep_xor_eq_crcBitFeed, List.range_succ, List.foldl_append,
      BitVec.getLsbD_ushiftRight, BitVec.shiftRight_add]
    rfl

theorem getLsbD_setWidth_byte (d : Byte) (k : Nat) : (d.setWidth 32).getLsbD k = d.getLsbD k := by
  have above : 32 ≤ k → d.getLsbD k = false := fun h => BitVec.getLsbD_of_ge d k (by omega)
  by_cases h : k < 32
  · simp [h]
  · simp [BitVec.getLsbD_setWidth, h, above (Nat.le_of_not_lt h)]

theorem setWidth_byte_ushiftRight_eight (d : Byte) : d.setWidth 32 >>> 8 = 0#32 := by
  apply BitVec.eq_of_getLsbD_eq
  intro k _
  rw [BitVec.getLsbD_ushiftRight, getLsbD_setWidth_byte, BitVec.getLsbD_of_ge d _ (by omega), BitVec.getLsbD_zero]

/-- Settles O20: after eight iterations all the bits of the byte have been consumed and none is left in the register. -/
theorem crcByteConsumesBitZeroFirst : Obligations.CrcByteConsumesBitZeroFirst := fun c d => by
  rw [crcByte, crcBitSteps_xor_eq_foldl, setWidth_byte_ushiftRight_eight, BitVec.xor_zero]
  simp only [getLsbD_setWidth_byte]
  rfl

theorem crcByte_xor (c c' : Word) (d d' : Byte) :
    crcByte (c ^^^ c') (d ^^^ d') = crcByte c d ^^^ crcByte c' d' := by
  have entered : c ^^^ c' ^^^ (d ^^^ d').setWidth 32 = (c ^^^ d.setWidth 32) ^^^ (c' ^^^ d'.setWidth 32) := by
    rw [BitVec.setWidth_xor]
    ac_rfl
  rw [crcByte, entered, crcBitSteps_xor, crcByte, crcByte]

/-- Two registers that are fed the same bytes differ by their difference fed as many zero bytes. -/
theorem crcFold_xor_crcFold (m : List Byte) (c c' : Word) :
    crcFold c m ^^^ crcFold c' m = crcFold (c ^^^ c') (List.replicate m.length 0#8) := by
  induction m generalizing c c' with
  | nil => rfl
  | cons d m ih =>
    rw [crcFold_cons, crcFold_cons, ih, ← crcByte_xor, BitVec.xor_self]
    rfl

end Sys2Proof.Machine
end

section
/-! The commands that feed bytes (20_memory.md R47): what a sequence of them leaves is a function of the bytes. -/

namespace Sys2Proof.Machine

/-- The machine after CRC_BYTE and CRC_WORD commands that fed the bytes `m`; with no byte fed there was no command. -/
def afterFeeding (m : List Byte) (s : State) : State :=
  { s with
    block := { s.block with crc := crcFold s.block.crc m }
    rsp := if m = [] then s.rsp else some 0#32 }

@[simp] theorem afterFeeding_nil (s : State) : afterFeeding [] s = s := rfl

theorem afterFeeding_append (m n : List Byte) (s : State) :
    afterFeeding (m ++ n) s = afterFeeding n (afterFeeding m s) := by
  cases n with
  | nil => simp
  | cons d n => simp [afterFeeding, crcFold_append]

theorem afterCommand_of_feeds {i : Instr} (hi : fedBytes i ≠ []) (s : State) :
    afterCommand i s = afterFeeding (fedBytes i) s := by
  cases i with
  | crcByte | crcWord => rfl
  | _ => exact absurd rfl hi

theorem afterEvents_map_issue_of_feeds {is : List Instr} (his : ∀ i ∈ is, fedBytes i ≠ []) (s : State) :
    afterEvents (is.map issue) s = afterFeeding (is.flatMap fedBytes) s := by
  induction is generalizing s with
  | nil => rfl
  | cons i is ih =>
    obtain ⟨hi, his⟩ := List.forall_mem_cons.mp his
    rw [List.map_cons, afterEvents_cons, afterEvent_issue, ih his, afterCommand_of_feeds hi, List.flatMap_cons,
      afterFeeding_append]

theorem performAll_map_issue_congr_of_feeds {is js : List Instr} (his : ∀ i ∈ is, fedBytes i ≠ [])
    (hjs : ∀ j ∈ js, fedBytes j ≠ []) (same : is.flatMap fedBytes = js.flatMap fedBytes) (s : State) :
    performAll (is.map issue) s = performAll (js.map issue) s := by
  rw [performAll_eq_next, performAll_eq_next, afterEvents_map_issue_of_feeds his, afterEvents_map_issue_of_feeds hjs, same]

/-- Settles O40: both sequences leave what feeding their common bytes leaves; a packed word feeds its four bytes. -/
theorem mixedWidthsAgree : Obligations.MixedWidthsAgree :=
  ⟨fun _ _ s his hjs same => performAll_map_issue_congr_of_feeds his hjs same s, fun a b c d s =>
    performAll_map_issue_congr_of_feeds (is := [.crcWord (packBE a b c d)])
      (js := [.crcByte a, .crcByte b, .crcByte c, .crcByte d]) (by simp [fedBytes, wireBytes]) (by simp [fedBytes])
      (by simp [fedBytes, wireBytes]) s⟩

end Sys2Proof.Machine
end

section
/-! A command performed twice in a row (20_memory.md R50). -/

namespace Sys2Proof.Machine

theorem performAll_issue_twice (i : Instr) (s : State) :
    performAll [issue i, issue i] s = .next (afterCommand i (afterCommand i s)) := by
  rw [performAll_eq_next, afterEvents_cons, afterEvents_cons, afterEvents_nil, afterEvent_issue, afterEvent_issue]

theorem nextBlock_of_writesNothing {i : Instr} (h : writesNothing i = true) (b : Block) : nextBlock i b = b := by
  cases i with
  | nop | tcEval | crcRead | crcStateRead | statusRead => rfl
  | _ => cases h

theorem fedBytes_eq_nil_of_writesNothing {i : Instr} (h : writesNothing i = true) : fedBytes i = [] := by
  cases i with
  | crcByte | crcWord => cases h
  | _ => rfl

/-- Of a command that feeds no bytes, neither what it writes nor what it answers depends on what it has written. -/
theorem afterCommand_afterCommand {i : Instr} (h : fedBytes i = []) (s : State) :
    afterCommand i (afterCommand i s) = afterCommand i s := by
  cases i with
  | crcByte | crcWord => cases h
  | _ => rfl

theorem performAll_issue_twice_of_fedBytes_eq_nil {i : Instr} (h : fedBytes i = []) (s : State) :
    performAll [issue i, issue i] s = completed s (nextBlock i s.block) (response i s.block) := by
  rw [performAll_issue_twice, afterCommand_afterCommand h]
  rfl

theorem length_fedBytes {i : Instr} (h : fedBytes i ≠ []) : (fedBytes i).length = 1 ∨ (fedBytes i).length = 4 := by
  cases i with
  | crcByte => exact .inl rfl
  | crcWord => exact .inr rfl
  | _ => exact absurd rfl h

/-- The difference 1 of two registers goes on changing when one byte or four are fed again. -/
theorem crcFold_zeros_twice_ne {n : Nat} (h : n = 1 ∨ n = 4) :
    crcFold (crcFold 1#32 (List.replicate n 0#8)) (List.replicate n 0#8) ≠ crcFold 1#32 (List.replicate n 0#8) := by
  obtain rfl | rfl := h
  · simp [crcByte, crcBitSteps, crcBitStep, crcPoly]
  · simp [List.replicate, crcByte, crcBitSteps, crcBitStep, crcPoly]

/-- Feeding the same bytes again cannot leave the register as it was from both 0 and 1: the difference of the two
would stay as it was too. -/
theorem exists_crcFold_twice_ne {m : List Byte} (h : m.length = 1 ∨ m.length = 4) :
    ∃ c, crcFold (crcFold c m) m ≠ crcFold c m := by
  by_contra! same
  have difference := crcFold_xor_crcFold m 0#32 1#32
  have differenceAgain := crcFold_xor_crcFold m (crcFold 0#32 m) (crcFold 1#32 m)
  rw [same, same, difference] at differenceAgain
  exact crcFold_zeros_twice_ne h differenceAgain.symm

/-- Settles O13: a command that feeds no bytes is idempotent, and one that feeds bytes changes the register again. -/
theorem repeatingACommand : Obligations.RepeatingACommand := by
  refine ⟨fun i s hi => ⟨response i s.block, ?_, ?_⟩, fun i s _ hi => ⟨_, _, exec_eq_completed i s, ?_⟩, fun i hi => ?_⟩
  · rw [exec_eq_completed, nextBlock_of_writesNothing hi]
  · rw [performAll_issue_twice_of_fedBytes_eq_nil (fedBytes_eq_nil_of_writesNothing hi), nextBlock_of_writesNothing hi]
  · exact performAll_issue_twice_of_fedBytes_eq_nil hi s
  · obtain ⟨c, hc⟩ := exists_crcFold_twice_ne (length_fedBytes hi)
    refine ⟨State.reset.writeCrc c, _, _, exec_eq_next i _, performAll_issue_twice i _, fun same => hc ?_⟩
    simp only [afterCommand_of_feeds hi] at same
    exact (congrArg Block.crc same).symm

end Sys2Proof.Machine
end

section
/-! The checksum on the wire (20_memory.md R45, R46). -/

namespace Sys2Proof.Machine

/-- A word split into its wire bytes and packed again is the word. -/
@[simp] theorem packBE_bytes (w : Word) : packBE (byte1 w) (byte2 w) (byte3 w) (byte4 w) = w := by
  simp only [packBE, byte1, byte2, byte3, byte4]
  rw [BitVec.extractLsb'_append_extractLsb'_eq_extractLsb' (show 24 = 16 + 8 from rfl),
    BitVec.extractLsb'_append_extractLsb'_eq_extractLsb' (show 16 = 8 + 8 from rfl),
    BitVec.extractLsb'_append_extractLsb'_eq_extractLsb' (show 8 = 0 + 8 from rfl)]
  exact BitVec.extractLsb'_eq_self

theorem checksumMatches_crcFinal (c : Word) : checksumMatches c (crcFinal c) = true := by
  simp [checksumMatches]

theorem nextBlock_crcCheck (checksum : Word) (b : Block) :
    nextBlock (.crcCheck checksum) b = { b with statusMatch := checksumMatches b.crc checksum } := rfl

theorem response_crcCheck (checksum : Word) (b : Block) :
    response (.crcCheck checksum) b = (bit (checksumMatches b.crc checksum)).setWidth 32 := rfl

/-- R111: the final CRC of the register is the operand CRC_CHECK matches. -/
theorem exec_crcCheck_crcFinal (s : State) :
    exec (.crcCheck (crcFinal s.block.crc)) s = completed s { s.block with statusMatch := true } 1#32 := by
  rw [exec_eq_completed, nextBlock_crcCheck, response_crcCheck, checksumMatches_crcFinal]
  rfl

/-- Settles O43: the operand packed from the bytes of the final CRC is the final CRC. -/
theorem wireChecksumMatches : Obligations.WireChecksumMatches := fun s => by
  refine ⟨crcFinal s.block.crc, exec_eq_completed .crcRead s, ?_⟩
  have packed (v : Word) : packBE (v.extractLsb 31 24) (v.extractLsb 23 16) (v.extractLsb 15 8) (v.extractLsb 7 0) = v :=
    packBE_bytes v
  rw [packed, exec_crcCheck_crcFinal]

end Sys2Proof.Machine
end

section
/-! The encoder undoes the decoder up to the ignored bits (30_encoding.md R62 to R64). -/

namespace Sys2Proof.Machine

/-- Settles O1: the decoder's arm for a command's `cmd` rebuilds the command from its operand. -/
theorem decodeOfEncodeIsTheCommand : Obligations.DecodeOfEncodeIsTheCommand := decode_encode

/-- R64: the command a word decodes to has the word's `cmd`. -/
@[simp] theorem opcodeOf_decodeFields (c : Cmd) (a : Word) : opcodeOf (decodeFields c a) = c := by
  obtain ⟨⟨k, hk⟩⟩ := c
  interval_cases k <;> rfl

/-- R62: `cmd` alone decides the operand form. -/
theorem formOf_decodeFields_congr (c : Cmd) (a a' : Word) : formOf (decodeFields c a) = formOf (decodeFields c a') := by
  simp only [decodeFields]
  split <;> rfl

theorem setWidth_byte4 (a : Word) : (byte4 a).setWidth 32 = a &&& 0x000000FF#32 := by
  apply BitVec.eq_of_toNat_eq
  have mask : a.toNat &&& 255 = a.toNat % 256 := Nat.and_two_pow_sub_one_eq_mod a.toNat 8
  simp only [byte4, BitVec.toNat_setWidth, BitVec.extractLsb'_toNat, BitVec.toNat_and, BitVec.toNat_ofNat,
    Nat.shiftRight_zero, Nat.reducePow, Nat.reduceMod, mask]
  omega

/-- R62, R63: a command keeps of `arg` the bits its form reads. -/
theorem operandOf_decodeFields (c : Cmd) (a : Word) :
    operandOf (decodeFields c a) = a &&& (formOf (decodeFields c a)).used := by
  fun_cases decodeFields c a with
  | case2 | case5 | case7 | case9 => exact BitVec.and_allOnes.symm
  | case4 => exact setWidth_byte4 a
  | _ => exact BitVec.and_zero.symm

@[simp] theorem opcodeOf_decode (w : CommandWord) : opcodeOf (decode w) = cmdOf w := opcodeOf_decodeFields _ _

theorem encode_decode (w : CommandWord) :
    encode (decode w) = commandWord (cmdOf w) (argOf w &&& (formOf (decode w)).used) := by
  rw [encode, opcodeOf_decode, decode, operandOf_decodeFields]

theorem and_not_eq_zero_iff (x u : Word) : x &&& ~~~u = 0#32 ↔ x &&& u = x := by
  simp only [BitVec.eq_of_getLsbD_eq_iff, BitVec.getLsbD_and, BitVec.getLsbD_not, BitVec.getLsbD_zero]
  refine forall₂_congr fun k hk => ?_
  cases x.getLsbD k <;> simp [hk]

/-- R63: the canonical words are the encodings. -/
theorem isCanonical_iff_encode_decode (w : CommandWord) : isCanonical w = true ↔ encode (decode w) = w := by
  rw [isCanonical, decide_eq_true_iff, and_not_eq_zero_iff, encode_decode]
  constructor
  · intro h
    rw [h, commandWord_cmdOf_argOf]
  · intro h
    simpa using congrArg argOf h

theorem isCanonical_encode (i : Instr) : isCanonical (encode i) = true :=
  (isCanonical_iff_encode_decode _).mpr (congrArg encode (decode_encode i))

/-- Settles O2: the command keeps `cmd` and the used bits of `arg`, and the canonical words are the encodings. -/
theorem encodeOfDecodeClearsIgnoredBits : Obligations.EncodeOfDecodeClearsIgnoredBits :=
  ⟨encode_decode, fun w => (isCanonical_iff_encode_decode w).mp⟩

end Sys2Proof.Machine
end

section
/-! The ignored bits of `arg` (30_encoding.md R63). -/

namespace Sys2Proof.Machine

theorem decode_congr {w w' : CommandWord} (cmd : cmdOf w = cmdOf w')
    (used : argOf w &&& (formOf (decode w)).used = argOf w' &&& (formOf (decode w)).used) : decode w = decode w' := by
  have form : formOf (decode w) = formOf (decode w') := by
    rw [decode, cmd]
    exact formOf_decodeFields_congr _ _ _
  have encodings : encode (decode w) = encode (decode w') := by
    rw [encode_decode, encode_decode, cmd, used, form]
  rw [← decode_encode (decode w), encodings, decode_encode]

/-- R25: only a reserved command sets STATUS.ILLEGAL. -/
theorem illegal_of_nextIllegal_of_not_isReserved {i : Instr} (h : i.isReserved = false) {illegal : Bool}
    (next : nextIllegal i illegal = true) : illegal = true := by
  cases illegal with
  | true => rfl
  | false => rwa [nextIllegal_false_of_not_isReserved h] at next

/-- R63: the assembler writes encodings of commands and nothing else. -/
theorem exists_map_encode_of_assemble {text : List Char} {ws : List CommandWord} (h : assemble text = .ok ws) :
    ∃ is : List Instr, is.map encode = ws := by
  rw [assemble] at h
  cases lines : (text.splitOn '\n').mapM assembleLine with
  | error e =>
    rw [lines] at h
    cases h
  | ok is =>
    rw [lines] at h
    exact ⟨is.flatten, Except.ok.inj h⟩

/-- Settles O3: a word acts through the command it decodes to, which holds no ignored bit, and the table and the
assembler write encodings of commands. -/
theorem ignoredArgBitsHaveNoEffect : Obligations.IgnoredArgBitsHaveNoEffect := by
  refine ⟨fun w w' s cmd used => ?_,
    fun w s defined => ⟨_, exec_eq_next _ s, illegal_of_nextIllegal_of_not_isReserved defined⟩,
    isCanonical_encode, by decide, fun text ws h w hw => ?_⟩
  · have same : decode w = decode w' := decode_congr cmd used
    exact ⟨same, congrArg (exec · s) same⟩
  · obtain ⟨is, rfl⟩ := exists_map_encode_of_assemble h
    obtain ⟨i, -, rfl⟩ := List.mem_map.mp hw
    exact isCanonical_encode i

end Sys2Proof.Machine
end

section
/-! The rows of the opcode table (30_encoding.md R65). -/

namespace Sys2Proof.Machine

open Sys2Proof.Laws

/-- Every command's canonical word lies in the row that carries the command's mnemonic. -/
theorem encodedRow : ∀ i : Instr, EncodedRow.Statement i
  | .nop => EncodedRow.nop
  | .tcEval arg => EncodedRow.tcEval arg
  | .crcInit => EncodedRow.crcInit
  | .crcByte d => EncodedRow.crcByte d
  | .crcWord arg => EncodedRow.crcWord arg
  | .crcRead => EncodedRow.crcRead
  | .crcCheck checksum => EncodedRow.crcCheck checksum
  | .crcStateRead => EncodedRow.crcStateRead
  | .crcStateWrite state => EncodedRow.crcStateWrite state
  | .statusRead => EncodedRow.statusRead
  | .statusClear => EncodedRow.statusClear
  | .rsvd0xB => EncodedRow.rsvd0xB
  | .rsvd0xC => EncodedRow.rsvd0xC
  | .rsvd0xD => EncodedRow.rsvd0xD
  | .rsvd0xE => EncodedRow.rsvd0xE
  | .rsvd0xF => EncodedRow.rsvd0xF

theorem opcodeTable_mask : ∀ r ∈ opcodeTable, r.mask = 0xF00000000#36 := by decide

theorem opcodeTable_value : ∀ r ∈ opcodeTable, commandWord (cmdOf r.value) 0 = r.value := by decide

theorem opcodeTable_cmd_nodup : (opcodeTable.map fun r => cmdOf r.value).Nodup := by decide

/-- R65: a row accepts the words of its `cmd`, whatever `arg` holds. -/
theorem accepts_iff_cmdOf {r : OpcodeRow} (hr : r ∈ opcodeTable) (w : CommandWord) :
    r.accepts w = true ↔ cmdOf w = cmdOf r.value := by
  have masked : w &&& 0xF00000000#36 = commandWord (cmdOf w) 0 := by
    rw [← commandWord_and_mask, commandWord_cmdOf_argOf]
  rw [OpcodeRow.accepts, decide_eq_true_iff, opcodeTable_mask r hr, masked]
  constructor
  · intro h
    rw [← h, cmdOf_commandWord]
  · intro h
    rw [h, opcodeTable_value r hr]

theorem eq_of_accepts {r r' : OpcodeRow} (hr : r ∈ opcodeTable) (hr' : r' ∈ opcodeTable) {w : CommandWord}
    (h : r.accepts w = true) (h' : r'.accepts w = true) : r' = r := by
  have cmd : cmdOf r'.value = cmdOf r.value :=
    ((accepts_iff_cmdOf hr' w).mp h').symm.trans ((accepts_iff_cmdOf hr w).mp h)
  exact List.inj_on_of_nodup_map opcodeTable_cmd_nodup hr' hr cmd

/-- The row of a word: that of the canonical word with the same `cmd`. -/
theorem exists_row (w : CommandWord) :
    ∃ r ∈ opcodeTable, r.mnemonic = mnemonicOf (decode w) ∧ r.accepts w = true := by
  obtain ⟨r, hr, mnemonic, accepts⟩ := encodedRow (decode w)
  refine ⟨r, hr, mnemonic, ?_⟩
  rw [accepts_iff_cmdOf hr] at accepts ⊢
  rw [← accepts, encode_decode, cmdOf_commandWord]

theorem isReserved_eq_isReservedCmd (i : Instr) : i.isReserved = isReservedCmd (opcodeOf i) := by
  cases i <;> rfl

/-- Settles O4: the rows are told apart by their `cmd`, and each command's row is in the table. -/
theorem everyWordDecodesToExactlyOneRow : Obligations.EveryWordDecodesToExactlyOneRow := by
  refine ⟨fun w => ?_, fun w => ⟨opcodeOf_decode w, ?_⟩, opcodeTable_mask, by decide, by decide⟩
  · obtain ⟨r, hr, mnemonic, accepts⟩ := exists_row w
    exact ⟨r, hr, accepts, mnemonic, fun r' hr' => eq_of_accepts hr hr' accepts⟩
  · rw [isReserved_eq_isReservedCmd, opcodeOf_decode]

end Sys2Proof.Machine
end

section
/-! The operands the assembler accepts (30_encoding.md R68, R69). -/

namespace Sys2Proof.Machine

theorem operandFits_some_iff (form : OperandForm) (n : Nat) :
    operandFits form (some n) = true ↔ ∃ k, form.width? = some k ∧ n < 2 ^ k := by
  cases h : form.width? <;> simp [operandFits, h]

theorem operandValue_number_eq_ok_iff (form : OperandForm) (n : Nat) (w : Word) :
    operandValue form (.number n) = .ok w ↔ operandFits form (some n) = true ∧ BitVec.ofNat 32 n = w := by
  rw [operandValue_number]
  split <;> simp [*]

theorem operandValue_number_eq_ok_ofNat_iff {form : OperandForm} {k : Nat} (hk : form.width? = some k) (n : Nat) :
    operandValue form (.number n) = .ok (BitVec.ofNat 32 n) ↔ n < 2 ^ k := by
  simp [operandValue_number_eq_ok_iff, operandFits_some_iff, hk]

/-- R69: the operand width of each mnemonic. -/
theorem width?_of_mem_operandMnemonics :
    ∀ m ∈ operandMnemonics, m.2.1.width? = some (if m.1 = "CRC_BYTE" then 8 else 32) := by
  simp [operandMnemonics, OperandForm.width?]

theorem operandMnemonics_command : ∀ m ∈ operandMnemonics, ∀ w, mnemonicOf (m.2.2 w) = m.1 ∧
    formOf (m.2.2 w) = m.2.1 ∧ operandOf (m.2.2 w) = w &&& m.2.1.used := by
  have full (w : Word) : w = w &&& 0xFFFFFFFF#32 := BitVec.and_allOnes.symm
  simp only [operandMnemonics, List.forall_mem_cons]
  exact ⟨fun w => ⟨rfl, rfl, full w⟩, fun w => ⟨rfl, rfl, setWidth_byte4 w⟩, fun w => ⟨rfl, rfl, full w⟩,
    fun w => ⟨rfl, rfl, full w⟩, fun w => ⟨rfl, rfl, full w⟩, fun _ h => absurd h List.not_mem_nil⟩

/-- A number after a mnemonic with an operand gives the command of the mnemonic's row when it fits the form. -/
theorem readCommand_of_readLiteral_number {m : String × OperandForm × (Word → Instr)} (hm : m ∈ operandMnemonics)
    {text rest : List Char} {n : Nat} (h : readLiteral (skipBlanks text) = .ok (.number n, rest)) :
    readCommand m.1.toList text =
      if n < 2 ^ (if m.1 = "CRC_BYTE" then 8 else 32) then .ok ([m.2.2 (BitVec.ofNat 32 n)], rest)
      else .error .valueDoesNotFit := by
  have fits : operandFits m.2.1 (some n) = true ↔ n < 2 ^ (if m.1 = "CRC_BYTE" then 8 else 32) := by
    simp [operandFits_some_iff, width?_of_mem_operandMnemonics m hm]
  rw [readCommand_operand m hm, h]
  simp only [Except.bind, operandValue_number, ← fits]
  split <;> rfl

/-- Settles O6: what a number gives depends on the width of the form alone, and the rows of the two lists of mnemonics
carry the forms of their commands. -/
theorem assemblerAcceptsExactlyFittingNumbers : Obligations.AssemblerAcceptsExactlyFittingNumbers := by
  refine ⟨fun n => operandValue_number_eq_ok_ofNat_iff rfl n, fun f hf n => ?_, fun n w => ?_, fun f n => ?_, rfl,
    by decide, rfl, operandMnemonics_command, fun m hm text n rest => readCommand_of_readLiteral_number hm⟩
  · have width : f.width? = some 32 := by
      revert f
      decide
    exact operandValue_number_eq_ok_ofNat_iff width n
  · rw [Ne, operandValue_number_eq_ok_iff, operandFits_some_iff]
    simp [OperandForm.width?]
  · simp [operandValue_number_eq_ok_iff, operandFits_some_iff]

end Sys2Proof.Machine
end

section
/-! The pseudo-instructions (30_encoding.md R70). -/

namespace Sys2Proof.Machine

@[simp] theorem fedBytes_crcWord_packBE (c0 c1 c2 c3 : Byte) :
    fedBytes (.crcWord (packBE c0 c1 c2 c3)) = [c0, c1, c2, c3] := by
  simp [fedBytes, wireBytes]

@[simp] theorem expandStr_group (c0 c1 c2 c3 : Byte) (rest : List Byte) :
    expandStr (c0 :: c1 :: c2 :: c3 :: rest) = .crcWord (packBE c0 c1 c2 c3) :: expandStr rest := rfl

theorem expandStr_of_no_group {m : List Byte}
    (short : ∀ c0 c1 c2 c3 rest, m = c0 :: c1 :: c2 :: c3 :: rest → False) : expandStr m = m.map .crcByte :=
  expandStr.eq_2 m short

theorem flatMap_fedBytes_map_crcByte (m : List Byte) : (m.map Instr.crcByte).flatMap fedBytes = m := by
  rw [List.flatMap_map]
  exact List.flatMap_singleton' m

theorem flatMap_fedBytes_expandStr (m : List Byte) : (expandStr m).flatMap fedBytes = m := by
  induction m using expandStr.induct with
  | case1 c0 c1 c2 c3 rest ih => simp [ih]
  | case2 rest short =>
    rw [expandStr_of_no_group short, flatMap_fedBytes_map_crcByte]

theorem length_lt_four_of_no_group {m : List Byte}
    (short : ∀ c0 c1 c2 c3 rest, m = c0 :: c1 :: c2 :: c3 :: rest → False) : m.length < 4 := by
  match m, short with
  | [], _ | [_], _ | [_, _], _ | [_, _, _], _ => simp
  | c0 :: c1 :: c2 :: c3 :: rest, short => exact (short c0 c1 c2 c3 rest rfl).elim

/-- R70: the words of the complete groups of four bytes, then the bytes left over. -/
theorem expandStr_eq_words_append_bytes (m : List Byte) :
    ∃ (ws : List Word) (ds : List Byte), expandStr m = ws.map .crcWord ++ ds.map .crcByte ∧
      ws.length = m.length / 4 ∧ ds.length = m.length % 4 := by
  induction m using expandStr.induct with
  | case1 c0 c1 c2 c3 rest ih =>
    obtain ⟨ws, ds, expanded, words, bytes⟩ := ih
    refine ⟨packBE c0 c1 c2 c3 :: ws, ds, by simp [expanded], ?_, ?_⟩ <;> simp only [List.length_cons] <;> omega
  | case2 rest short =>
    have few : rest.length < 4 := length_lt_four_of_no_group short
    exact ⟨[], rest, expandStr_of_no_group short, (Nat.div_eq_of_lt few).symm, (Nat.mod_eq_of_lt few).symm⟩

/-- Settles O7: the groups of four bytes are fed as they were packed, and there are as many as the length says. -/
theorem pseudoInstructionsFeedTheString : Obligations.PseudoInstructionsFeedTheString := by
  refine ⟨fun m => ?_, fun _ _ => rfl⟩
  obtain ⟨ws, ds, expanded, words, bytes⟩ := expandStr_eq_words_append_bytes m
  have groups : m.length / 4 = (ws.map Instr.crcWord).length := by rw [List.length_map, words]
  refine ⟨flatMap_fedBytes_expandStr m, ?_, fun i hi => ?_, fun i hi => ?_⟩
  · simp [expanded, words, bytes]
  · rw [expanded, groups, List.take_left] at hi
    obtain ⟨arg, -, rfl⟩ := List.mem_map.mp hi
    exact ⟨arg, rfl⟩
  · rw [expanded, groups, List.drop_left] at hi
    obtain ⟨d, -, rfl⟩ := List.mem_map.mp hi
    exact ⟨d, rfl⟩

end Sys2Proof.Machine
end

section
/-! The encoding examples (30_encoding.md R71). -/

namespace Sys2Proof.Machine

/-- Settles O5: the assembler and the decoder evaluated on the lines and the words of R71. -/
theorem encodingExamplesAreRead : Obligations.EncodingExamplesAreRead := ⟨by decide, by decide⟩

end Sys2Proof.Machine
end

section
/-! The TypeCode predicates (40_typecode.md R80 to R87), each as ranges of a byte's value or as a bit of the word. -/

namespace Sys2Proof.Machine

theorem alpha_iff (b : Byte) :
    alpha b = true ↔ (0x41 ≤ b.toNat ∧ b.toNat ≤ 0x5A) ∨ (0x61 ≤ b.toNat ∧ b.toNat ≤ 0x7A) := by
  simp [alpha, BitVec.le_def]

theorem flagBit_iff_and_ne_zero (b : Byte) : flagBit b = true ↔ b &&& 0x20#8 ≠ 0 := by
  rw [flagBit, show 0x20#8 = BitVec.twoPow 8 5 from rfl, BitVec.and_twoPow]
  cases b.getLsbD 5 <;> decide

theorem flagBit_iff_toNat (b : Byte) : flagBit b = true ↔ b.toNat / 32 % 2 = 1 := by
  simp [flagBit, BitVec.getLsbD, Nat.testBit_eq_decide_div_mod_eq]

/-- R82: the letters come as two runs of 26, and the bit of weight 0x20 tells which. -/
theorem flagBit_iff_lowerCase_of_alpha {b : Byte} (h : alpha b = true) :
    flagBit b = true ↔ 0x61 ≤ b.toNat ∧ b.toNat ≤ 0x7A := by
  rw [alpha_iff] at h
  rw [flagBit_iff_toNat]
  omega

theorem wellFormedCode_iff (w : Word) :
    wellFormedCode w = true ↔ alpha (byte1 w) = true ∧ alpha (byte2 w) = true ∧ alpha (byte3 w) = true ∧
      alpha (byte4 w) = true := by
  simp [wellFormedCode, and_assoc]

theorem critical_eq_not_getLsbD (w : Word) : critical w = !w.getLsbD 29 := by
  simp [critical, flagBit, byte1]

theorem publicFlag_eq_not_getLsbD (w : Word) : publicFlag w = !w.getLsbD 21 := by
  simp [publicFlag, flagBit, byte2]

theorem reservedOk_eq_not_getLsbD (w : Word) : reservedOk w = !w.getLsbD 13 := by
  simp [reservedOk, flagBit, byte3]

theorem safeToCopy_eq_getLsbD (w : Word) : safeToCopy w = w.getLsbD 5 := by
  simp [safeToCopy, flagBit, byte4]

theorem validCode_of_wellFormed {w : Word} (h : wellFormedCode w = true) : validCode w = reservedOk w := by
  simp [validCode, h]

theorem validCode_of_not_wellFormed {w : Word} (h : wellFormedCode w = false) : validCode w = false := by
  simp [validCode, h]

/-- Settles O15: the ranges of the letters decide the clauses on bytes, and each flag of a code is one bit of its word. -/
theorem typeCodePredicates : Obligations.TypeCodePredicates := by
  refine ⟨alpha_iff, fun b high => ?_, flagBit_iff_and_ne_zero, fun b => flagBit_iff_lowerCase_of_alpha, fun w =>
    ⟨wellFormedCode_iff w, critical_eq_not_getLsbD w, publicFlag_eq_not_getLsbD w, reservedOk_eq_not_getLsbD w,
      safeToCopy_eq_getLsbD w, rfl, validCode_of_wellFormed, validCode_of_not_wellFormed⟩⟩
  rw [Bool.eq_false_iff, Ne, alpha_iff]
  omega

end Sys2Proof.Machine
end

section
/-! TC_EVAL and its flag word (40_typecode.md R88, R89). -/

namespace Sys2Proof.Machine

/-- The bits of TC_EVAL's response from bit 0 up (R88); every bit above them is 0. -/
def flagBits (w : Word) : List Bool :=
  [wellFormedCode w, critical w, publicFlag w, reservedOk w, safeToCopy w, validCode w, false, false,
    alpha (byte1 w), alpha (byte2 w), alpha (byte3 w), alpha (byte4 w)]

/-- The bits of `x` from bit 0 up are `bits`, and 0 above them. -/
def HasBits {n : Nat} (x : BitVec n) (bits : List Bool) : Prop := ∀ k, x.getLsbD k = bits.getD k false

theorem hasBits_bit (b : Bool) : HasBits (bit b) [b] := by
  intro k
  cases k <;> simp [bit]

section
variable {n : Nat} {x : BitVec n} {bits : List Bool}

/-- Concatenation puts the new bit below the others. -/
theorem HasBits.append_bit (h : HasBits x bits) (b : Bool) : HasBits (x ++ bit b) (b :: bits) := by
  intro k
  rw [BitVec.getLsbD_append]
  cases k with
  | zero => simp [bit]
  | succ k => simpa using h k

theorem HasBits.append_two_zeros (h : HasBits x bits) : HasBits (x ++ 0#2) (false :: false :: bits) := by
  intro k
  rw [BitVec.getLsbD_append]
  match k with
  | 0 | 1 => simp
  | k + 2 => simpa using h k

theorem HasBits.setWidth (h : HasBits x bits) {m : Nat} (fits : bits.length ≤ m) : HasBits (x.setWidth m) bits := by
  intro k
  rw [BitVec.getLsbD_setWidth, h k]
  obtain low | high := Nat.lt_or_ge k m
  · rw [decide_eq_true low, Bool.true_and]
  · rw [List.getD_eq_default _ _ (fits.trans high), Bool.and_false]

end

theorem flagWord_hasBits (w : Word) : HasBits (flagWord w) (flagBits w) :=
  have alphas := (((hasBits_bit (alpha (byte4 w))).append_bit (alpha (byte3 w))).append_bit (alpha (byte2 w))).append_bit
    (alpha (byte1 w))
  have upper := ((alphas.append_two_zeros.append_bit (validCode w)).append_bit (safeToCopy w)).append_bit (reservedOk w)
  have whole := ((upper.append_bit (publicFlag w)).append_bit (critical w)).append_bit (wellFormedCode w)
  whole.setWidth (show 12 ≤ 32 by decide)

theorem exec_tcEval (arg : Word) (s : State) : exec (.tcEval arg) s = completed s s.block (flagWord arg) :=
  exec_eq_completed (.tcEval arg) s

/-- Settles O16: the response is the flag word, whose bits are `flagBits`. -/
theorem tcEvalAnswersTheFlagWord : Obligations.TcEvalAnswersTheFlagWord := by
  refine ⟨fun arg => decode_commandWord 0x1#4 arg, fun arg s => ⟨flagWord arg, exec_tcEval arg s, ?_⟩, fun s => ?_⟩
  · simp only [flagWord_hasBits arg _]
    exact ⟨rfl, rfl, rfl, rfl, rfl, rfl, rfl, rfl, rfl, rfl, rfl, rfl, fun k high => List.getD_eq_default _ _ high,
      validCode_of_not_wellFormed⟩
  · have zeros : flagWord 0x00000000#32 = 0x0000000E#32 := by decide
    have ones : flagWord 0xFFFFFFFF#32 = 0x00000010#32 := by decide
    have ruSt : flagWord 0x52755374#32 = 0x00000F3B#32 := by decide
    simp only [exec_tcEval, zeros, ones, ruSt, and_self]

theorem readTypeCode_flagWord (w : Word) :
    readTypeCode (flagWord w) =
      if wellFormedCode w then (if reservedOk w then .valid else .notAValidChunkType) else .invalidTypeCode := by
  have wf : (flagWord w).getLsbD 0 = wellFormedCode w := flagWord_hasBits w 0
  have valid : (flagWord w).getLsbD 5 = validCode w := flagWord_hasBits w 5
  rw [readTypeCode, wf, valid]
  cases h : wellFormedCode w with
  | false => rfl
  | true => rw [validCode_of_wellFormed h]

/-- Settles O17: the four values of well-formed and reserved-bit-valid, read off the flag word. -/
theorem hostReadsTheTypeCode : Obligations.HostReadsTheTypeCode := fun arg s => by
  refine ⟨flagWord arg, exec_tcEval arg s, ?_⟩
  rw [readTypeCode_flagWord]
  cases wellFormedCode arg <;> cases reservedOk arg <;> decide

end Sys2Proof.Machine
end

section
/-! The single-bit steps lose nothing (41_crc.md R101): different registers stay different, and different bytes fed to one
register leave different ones. The laws of R114. -/

namespace Sys2Proof.Machine

/-- Bit 31 of the polynomial is 1, so bit 31 of the register records the bit that was shifted out. -/
theorem getLsbD_crcBitStep_top (c : Word) : (crcBitStep c).getLsbD 31 = c.getLsbD 0 := by
  have shifted : (c >>> 1).getLsbD 31 = false := by simp
  have poly : crcPoly.getLsbD 31 = true := by decide
  rw [crcBitStep]
  cases h : c.getLsbD 0 with
  | false => exact shifted
  | true => rw [if_pos rfl, BitVec.getLsbD_xor, shifted, poly, Bool.false_xor]

theorem crcBitStep_eq_zero_iff (c : Word) : crcBitStep c = 0#32 ↔ c = 0#32 := by
  refine ⟨fun h => ?_, fun h => by rw [h]; rfl⟩
  have out : c.getLsbD 0 = false := by rw [← getLsbD_crcBitStep_top, h, BitVec.getLsbD_zero]
  have kept : c >>> 1 = 0#32 := by rwa [crcBitStep, out, if_neg Bool.false_ne_true] at h
  apply BitVec.eq_of_getLsbD_eq
  intro k _
  cases k with
  | zero => exact out
  | succ k => rw [Nat.add_comm, ← BitVec.getLsbD_ushiftRight, kept, BitVec.getLsbD_zero, BitVec.getLsbD_zero]

theorem crcBitSteps_eq_zero_iff (n : Nat) (c : Word) : crcBitSteps n c = 0#32 ↔ c = 0#32 := by
  induction n generalizing c with
  | zero => rfl
  | succ n ih => rw [crcBitSteps, ih, crcBitStep_eq_zero_iff]

theorem crcBitSteps_inj (n : Nat) (a b : Word) : crcBitSteps n a = crcBitSteps n b ↔ a = b := by
  rw [← BitVec.xor_eq_zero_iff, ← crcBitSteps_xor, crcBitSteps_eq_zero_iff, BitVec.xor_eq_zero_iff]

theorem setWidth_byte_inj (d d' : Byte) : d.setWidth 32 = d'.setWidth 32 ↔ d = d' :=
  ⟨fun h => by rw [← byte4_setWidth d, h, byte4_setWidth], congrArg _⟩

theorem crcByte_register_inj (c c' : Word) (d : Byte) : crcByte c d = crcByte c' d ↔ c = c' := by
  rw [crcByte, crcByte, crcBitSteps_inj, BitVec.xor_left_inj]

theorem crcByte_byte_inj (c : Word) (d d' : Byte) : crcByte c d = crcByte c d' ↔ d = d' := by
  rw [crcByte, crcByte, crcBitSteps_inj, BitVec.xor_right_inj, setWidth_byte_inj]

theorem crcByte_zero_byte_eq_zero_iff (c : Word) : crcByte c 0#8 = 0#32 ↔ c = 0#32 := by
  rw [crcByte, crcBitSteps_eq_zero_iff, BitVec.setWidth_zero, BitVec.xor_zero]

theorem crcFold_register_inj (m : List Byte) (c c' : Word) : crcFold c m = crcFold c' m ↔ c = c' := by
  induction m generalizing c c' with
  | nil => rfl
  | cons d m ih => rw [crcFold_cons, crcFold_cons, ih, crcByte_register_inj]

@[simp] theorem crc32_nil : crc32 [] = 0#32 := by decide

/-- Settles O44: the laws of the fold and of one byte, and two values. -/
theorem lawsOfTheCrcFunction : Obligations.LawsOfTheCrcFunction :=
  ⟨crcFold_append, crc32_nil, crcByte_xor, (crcByte_zero_byte_eq_zero_iff 0#32).mpr rfl⟩

/-- Settles O19: the definitions, with R5's constants written out. -/
theorem crcFunctionIsTheSpecs : Obligations.CrcFunctionIsTheSpecs :=
  ⟨fun _ _ => rfl, crcFold_nil, crcFold_cons, fun _ => rfl⟩

end Sys2Proof.Machine
end

section
/-! Eight iterations consume the low byte and shift the others down: the byte-wide table (41_crc.md R106), and CRC_WORD
as 32 iterations on all its bytes at once. -/

namespace Sys2Proof.Machine

/-- Bits above those the iterations consume are shifted down unread. -/
theorem crcBitSteps_of_low_zero {n : Nat} {x : Word} (low : ∀ k < n, x.getLsbD k = false) : crcBitSteps n x = x >>> n := by
  induction n generalizing x with
  | zero => exact (BitVec.ushiftRight_zero x).symm
  | succ n ih =>
    have step : crcBitStep x = x >>> 1 := by rw [crcBitStep, low 0 n.succ_pos, if_neg Bool.false_ne_true]
    have above : ∀ k < n, (x >>> 1).getLsbD k = false := fun k hk => by
      rw [BitVec.getLsbD_ushiftRight, low (1 + k) (by omega)]
    rw [crcBitSteps, step, ih above, ← BitVec.shiftRight_add, Nat.add_comm]

theorem packBE_eq_byte_xor (c0 c1 c2 c3 : Byte) :
    packBE c0 c1 c2 c3 = c3.setWidth 32 ^^^ packBE c0 c1 c2 0#8 := by
  apply BitVec.eq_of_getLsbD_eq
  intro k _
  rw [BitVec.getLsbD_xor, getLsbD_setWidth_byte, getLsbD_packBE, getLsbD_packBE]
  split
  · simp
  · rw [BitVec.getLsbD_of_ge c3 k (by omega), Bool.false_xor]

theorem packBE_ushiftRight_eight (c0 c1 c2 c3 : Byte) : packBE c0 c1 c2 c3 >>> 8 = packBE 0#8 c0 c1 c2 := by
  apply BitVec.eq_of_getLsbD_eq
  intro k hk
  rw [BitVec.getLsbD_ushiftRight, getLsbD_packBE, getLsbD_packBE, if_neg (by omega)]
  grind

/-- Bytes that wait above the first one in the register are shifted down while it is consumed. -/
theorem crcBitSteps_eight_xor_packBE (c : Word) (c0 c1 c2 c3 : Byte) :
    crcBitSteps 8 (c ^^^ packBE c0 c1 c2 c3) = crcByte c c3 ^^^ packBE 0#8 c0 c1 c2 := by
  have low : ∀ k < 8, (packBE c0 c1 c2 0#8).getLsbD k = false := fun k hk => by
    rw [getLsbD_packBE, if_pos hk, BitVec.getLsbD_zero]
  rw [packBE_eq_byte_xor, ← BitVec.xor_assoc, crcBitSteps_xor, crcBitSteps_of_low_zero low, packBE_ushiftRight_eight,
    crcByte]

/-- CRC_WORD consumes its 32 bits in 32 iterations, as if all had entered at once, the first byte lowest. -/
theorem crcWord_eq_crcBitSteps (c arg : Word) :
    crcWord c arg = crcBitSteps 32 (c ^^^ packBE (byte4 arg) (byte3 arg) (byte2 arg) (byte1 arg)) := by
  have zeros : packBE 0#8 0#8 0#8 0#8 = 0#32 := rfl
  have parts (x : Word) : crcBitSteps 32 x = crcBitSteps (8 + (8 + (8 + 8))) x := rfl
  simp only [parts, crcBitSteps_add, crcBitSteps_eight_xor_packBE, zeros, BitVec.xor_zero, crcWord]

theorem eq_iff_bytes (w w' : Word) :
    w = w' ↔ byte1 w = byte1 w' ∧ byte2 w = byte2 w' ∧ byte3 w = byte3 w' ∧ byte4 w = byte4 w' := by
  constructor
  · rintro rfl
    exact ⟨rfl, rfl, rfl, rfl⟩
  · rintro ⟨h1, h2, h3, h4⟩
    rw [← packBE_bytes w, h1, h2, h3, h4, packBE_bytes]

theorem packBE_reversed_inj (w w' : Word) :
    packBE (byte4 w) (byte3 w) (byte2 w) (byte1 w) = packBE (byte4 w') (byte3 w') (byte2 w') (byte1 w') ↔ w = w' := by
  rw [eq_iff_bytes w w', eq_iff_bytes]
  simp only [byte1_packBE, byte2_packBE, byte3_packBE, byte4_packBE]
  tauto

/-- Different words leave different registers. -/
theorem crcWord_arg_inj (c arg arg' : Word) : crcWord c arg = crcWord c arg' ↔ arg = arg' := by
  rw [crcWord_eq_crcBitSteps, crcWord_eq_crcBitSteps, crcBitSteps_inj, BitVec.xor_right_inj, packBE_reversed_inj]

/-- Settles O46: the low byte is consumed with the byte that is fed, from 0, and the others are shifted down. -/
theorem byteTableComputesTheSameCrc : Obligations.ByteTableComputesTheSameCrc := fun c d => by
  have low : byte4 c = c.setWidth 8 := (BitVec.setWidth_eq_extractLsb' (by decide)).symm
  calc crcByte c d
    _ = crcBitSteps 8 (d.setWidth 32 ^^^ packBE (byte1 c) (byte2 c) (byte3 c) (byte4 c)) := by
      rw [packBE_bytes, BitVec.xor_comm, crcByte]
    _ = crcByte (d.setWidth 32) (byte4 c) ^^^ packBE 0#8 (byte1 c) (byte2 c) (byte3 c) :=
      crcBitSteps_eight_xor_packBE _ _ _ _ _
    _ = crcTable (c.setWidth 8 ^^^ d) ^^^ (c >>> 8) := by
      rw [← packBE_ushiftRight_eight _ _ _ (byte4 c), packBE_bytes, low, crcTable, crcByte, crcByte, BitVec.setWidth_xor,
        BitVec.zero_xor, BitVec.xor_comm (d.setWidth 32)]

end Sys2Proof.Machine
end

section
/-! Sequences that load the register with CRC_INIT or CRC_STATE_WRITE and go on with CRC_BYTE and CRC_WORD: what they
leave, and what a command after them does (41_crc.md R107 to R113). -/

namespace Sys2Proof.Machine

theorem performAll_append_issue (es : List HostEvent) (i : Instr) (s : State) :
    performAll (es ++ [issue i]) s = exec i (afterEvents es s) := by
  rw [performAll_eq_next, afterEvents_append, afterEvents_cons, afterEvents_nil, afterEvent_issue, exec_eq_next]

theorem performAll_issue (i : Instr) (s : State) : performAll [issue i] s = exec i s := performAll_append_issue [] i s

theorem performAll_issue_twice_eq_exec {i : Instr} (h : fedBytes i = []) (s : State) :
    performAll [issue i, issue i] s = exec i s := by
  rw [performAll_issue_twice_of_fedBytes_eq_nil h, exec_eq_completed]

theorem afterFeeding_of_setsCrc {i : Instr} (hi : setsCrc i = true) (m : List Byte) (s : State) :
    afterFeeding m (afterCommand i s) = afterCommand (.crcStateWrite (crcFold (nextCrc i s.block.crc) m)) s := by
  cases i with
  | crcInit | crcStateWrite => cases m <;> rfl
  | _ => cases hi

section
variable {i : Instr} (hi : setsCrc i = true) {is : List Instr} (his : ∀ j ∈ is, fedBytes j ≠ []) {s : State} {v : Word}
  (value : crcFold (nextCrc i s.block.crc) (is.flatMap fedBytes) = v)
include hi his value

/-- R113, R114 (a): loading the register and feeding bytes leaves what CRC_STATE_WRITE of the running CRC leaves. -/
theorem afterEvents_load_feeds : afterEvents (issue i :: is.map issue) s = afterCommand (.crcStateWrite v) s := by
  rw [afterEvents_cons, afterEvent_issue, afterEvents_map_issue_of_feeds his, afterFeeding_of_setsCrc hi, value]

theorem performAll_load_feeds :
    performAll (issue i :: is.map issue) s = completed s { s.block with crc := v } 0#32 := by
  rw [performAll_eq_next, afterEvents_load_feeds hi his value]
  rfl

theorem performAll_load_feeds_then (j : Instr) :
    performAll (issue i :: is.map issue ++ [issue j]) s =
      completed s (nextBlock j { s.block with crc := v }) (response j { s.block with crc := v }) := by
  rw [performAll_append_issue, afterEvents_load_feeds hi his value, exec_eq_completed]
  rfl

theorem performAll_load_feeds_crcRead :
    performAll (issue i :: is.map issue ++ [issue .crcRead]) s = completed s { s.block with crc := v } (crcFinal v) :=
  performAll_load_feeds_then hi his value .crcRead

theorem performAll_load_feeds_crcStateRead :
    performAll (issue i :: is.map issue ++ [issue .crcStateRead]) s = completed s { s.block with crc := v } v :=
  performAll_load_feeds_then hi his value .crcStateRead

end

theorem fedBytes_ne_nil_of_mem_expandStr (m : List Byte) : ∀ i ∈ expandStr m, fedBytes i ≠ [] := by
  obtain ⟨ws, ds, expanded, -, -⟩ := expandStr_eq_words_append_bytes m
  simp [expanded, fedBytes, wireBytes, or_imp, forall_and]

theorem fedBytes_ne_nil_of_mem_crcWord (arg : Word) : ∀ i ∈ [Instr.crcWord arg], fedBytes i ≠ [] := by
  simp [fedBytes, wireBytes]

end Sys2Proof.Machine
end

section
/-! The values of the CRC function on the spec's examples (41_crc.md R100, R108 to R113). -/

namespace Sys2Proof.Machine

theorem crcByte_seed_zero : crcByte crcSeed 0x00#8 = 0x2DFD1072#32 := by decide

theorem crcWord_seed_ones : crcWord crcSeed 0xFFFFFFFF#32 = 0#32 := by
  simp [crcWord, byte1, byte2, byte3, byte4, crcByte, crcBitSteps, crcBitStep, crcSeed]

theorem crcWord_seed_iend : crcWord crcSeed 0x49454E44#32 = 0x51BD9F7D#32 := by
  simp [crcWord, byte1, byte2, byte3, byte4, crcByte, crcBitSteps, crcBitStep, crcPoly, crcSeed]

theorem crcWord_seed_1234 : crcWord crcSeed 0x31323334#32 = 0x641C1F5C#32 := by
  simp [crcWord, byte1, byte2, byte3, byte4, crcByte, crcBitSteps, crcBitStep, crcPoly, crcSeed]

theorem crcFold_56789 : crcFold 0x641C1F5C#32 [0x35#8, 0x36#8, 0x37#8, 0x38#8, 0x39#8] = 0x340BC6D9#32 := by
  simp [crcByte, crcBitSteps, crcBitStep, crcPoly]

/-- R100: the check value, split after the fourth byte (R114 (a)). -/
theorem crc32_123456789 :
    crc32 [0x31#8, 0x32#8, 0x33#8, 0x34#8, 0x35#8, 0x36#8, 0x37#8, 0x38#8, 0x39#8] = 0xCBF43926#32 := by
  have bytes : [0x31#8, 0x32#8, 0x33#8, 0x34#8, 0x35#8, 0x36#8, 0x37#8, 0x38#8, 0x39#8] =
      wireBytes 0x31323334#32 ++ [0x35#8, 0x36#8, 0x37#8, 0x38#8, 0x39#8] := by decide
  rw [crc32, bytes, crcFold_append, ← crcWord_eq_crcFold, crcWord_seed_1234, crcFold_56789]
  decide

end Sys2Proof.Machine
end

section
/-! The commands CRC_INIT, CRC_BYTE, CRC_WORD, CRC_READ, CRC_STATE_READ and CRC_STATE_WRITE (41_crc.md R107 to R110,
R112, R113). -/

namespace Sys2Proof.Machine

/-- Settles O18: CRC_INIT feeds no byte, so it is idempotent, and CRC_READ after it answers for no byte fed. -/
theorem crcInitLoadsTheSeed : Obligations.CrcInitLoadsTheSeed :=
  ⟨decode_commandWord 0x2#4, exec_eq_completed .crcInit, performAll_issue_twice_eq_exec rfl,
    fun _ => ⟨_, exec_eq_next .crcInit _, rfl⟩,
    fun _ => ⟨performAll_load_feeds_crcRead (i := .crcInit) rfl (is := []) (by simp) rfl, crc32_nil⟩⟩

/-- Settles O25: the response is `crc`, after a load and bytes fed as after a reset. -/
theorem crcStateReadAnswersTheRawRegister : Obligations.CrcStateReadAnswersTheRawRegister :=
  ⟨decode_commandWord 0x7#4, exec_eq_completed .crcStateRead,
    fun _ => performAll_load_feeds_crcStateRead (i := .crcInit) rfl (is := []) (by simp) rfl,
    fun s => performAll_append_issue [.reset] .crcStateRead s,
    fun _ => performAll_load_feeds_crcStateRead (i := .crcInit) rfl (fedBytes_ne_nil_of_mem_crcWord 0x31323334#32)
      crcWord_seed_1234⟩

/-- Settles O21: a zero byte is eight iterations on the register, and those leave 0 only from 0. -/
theorem crcByteFeedsOneByte : Obligations.CrcByteFeedsOneByte :=
  ⟨decode_commandWord 0x3#4, fun d => exec_eq_completed (.crcByte d), crcByte_zero_byte_eq_zero_iff, fun _ =>
    ⟨performAll_load_feeds (i := .crcInit) rfl (is := [.crcByte 0x00#8]) (by decide) crcByte_seed_zero,
      performAll_load_feeds_crcRead (i := .crcInit) rfl (is := [.crcByte 0x00#8]) (by decide) crcByte_seed_zero⟩⟩

theorem performAll_crcInit_crcWord (arg : Word) {v : Word} (value : crcWord crcSeed arg = v) (s : State) :
    performAll [issue .crcInit, issue (.crcWord arg)] s = completed s { s.block with crc := v } 0#32 :=
  performAll_load_feeds (i := .crcInit) rfl (fedBytes_ne_nil_of_mem_crcWord arg) value

theorem arg_eq_of_performAll_crcInit_crcWord_eq {arg arg' : Word} {s : State}
    (same : performAll [issue .crcInit, issue (.crcWord arg)] s = performAll [issue .crcInit, issue (.crcWord arg')] s) :
    arg = arg' := by
  rw [performAll_crcInit_crcWord arg rfl, performAll_crcInit_crcWord arg' rfl] at same
  have crcs : crcWord crcSeed arg = crcWord crcSeed arg' := congrArg (fun t => t.block.crc) (Host.Outcome.next.inj same)
  exact (crcWord_arg_inj _ _ _).mp crcs

/-- Settles O22: CRC_WORD and the four CRC_BYTE commands feed the same bytes, and
different words leave different registers. -/
theorem crcWordFeedsFourBytes : Obligations.CrcWordFeedsFourBytes := by
  refine ⟨decode_commandWord 0x4#4, fun arg => exec_eq_completed (.crcWord arg), fun arg s => ?_, fun s =>
    ⟨performAll_crcInit_crcWord _ crcWord_seed_ones s, performAll_crcInit_crcWord _ crcWord_seed_iend s,
      performAll_load_feeds_crcRead (i := .crcInit) rfl (fedBytes_ne_nil_of_mem_crcWord 0x49454E44#32) crcWord_seed_iend,
      fun same => absurd (arg_eq_of_performAll_crcInit_crcWord_eq same) (by decide)⟩⟩
  rw [← performAll_issue]
  exact performAll_map_issue_congr_of_feeds (js := (wireBytes arg).map .crcByte) (fedBytes_ne_nil_of_mem_crcWord arg)
    (by simp [fedBytes]) (by simp [fedBytes, flatMap_fedBytes_map_crcByte]) s

/-- Settles O23: CRC_READ writes nothing, and what it answers is the final CRC of what was loaded and fed. -/
theorem crcReadAnswersTheFinalCrc : Obligations.CrcReadAnswersTheFinalCrc :=
  ⟨decode_commandWord 0x5#4, exec_eq_completed .crcRead, performAll_issue_twice_eq_exec rfl,
    fun _ v => performAll_load_feeds_crcRead (i := .crcStateWrite v) rfl (is := []) (by simp) rfl,
    fun _ m => performAll_load_feeds_crcRead (i := .crcInit) rfl (fedBytes_ne_nil_of_mem_expandStr m)
      (by rw [flatMap_fedBytes_expandStr]; rfl), crc32_123456789⟩

/-- Settles O26: feeding from the saved register is feeding on, by the split of the fold. -/
theorem crcStateWriteLoadsTheRawRegister : Obligations.CrcStateWriteLoadsTheRawRegister :=
  ⟨decode_commandWord 0x8#4, fun v => exec_eq_completed (.crcStateWrite v), fun _ => rfl,
    fun c a b _ => performAll_load_feeds_crcStateRead (i := .crcStateWrite (crcFold c a)) rfl
      (fedBytes_ne_nil_of_mem_expandStr b) (by rw [flatMap_fedBytes_expandStr, crcFold_append]; rfl),
    fun _ => performAll_load_feeds_crcRead (i := .crcStateWrite 0x641C1F5C#32) rfl (fedBytes_ne_nil_of_mem_expandStr _)
      (by rw [flatMap_fedBytes_expandStr]; exact crcFold_56789)⟩

end Sys2Proof.Machine
end

section
/-! CRC_CHECK and the checksum of a chunk (41_crc.md R104, R105, R111). -/

namespace Sys2Proof.Machine

theorem setWidth_bit_decide (p : Prop) [Decidable p] : (bit (decide p)).setWidth 32 = if p then 1#32 else 0#32 := by
  by_cases h : p <;> simp [h, bit]

/-- R111: the final CRC is compared, and the response tells the same as STATUS.MATCH. -/
theorem exec_crcCheck (v : Word) (s : State) :
    exec (.crcCheck v) s = completed s { s.block with statusMatch := decide (crcFinal s.block.crc = v) }
      (if crcFinal s.block.crc = v then 1#32 else 0#32) := by
  have compared : checksumMatches s.block.crc v = decide (crcFinal s.block.crc = v) := beq_eq_decide _ _
  rw [exec_eq_completed, nextBlock_crcCheck, response_crcCheck, compared, setWidth_bit_decide]

theorem xor_eq_self_iff {n : Nat} (x e : BitVec n) : x ^^^ e = x ↔ e = 0#n := by
  rw [← BitVec.xor_right_inj (x := e) (y := 0#n) x, BitVec.xor_zero]

theorem crcFinal_ne_self (c : Word) : crcFinal c ≠ c := by
  rw [crcFinal, Ne, xor_eq_self_iff]
  decide

/-- A checksum with its bytes in the other order is another one, unless they read the same both ways. -/
theorem eq_packBE_reversed_iff (v : Word) :
    v = packBE (byte4 v) (byte3 v) (byte2 v) (byte1 v) ↔ byte1 v = byte4 v ∧ byte2 v = byte3 v := by
  rw [eq_iff_bytes]
  simp only [byte1_packBE, byte2_packBE, byte3_packBE, byte4_packBE]
  tauto

theorem performAll_crcCheck_overwrites (es : List HostEvent) (v v' : Word) (s : State) :
    performAll (es ++ [issue (.crcCheck v), issue (.crcCheck v')]) s = performAll (es ++ [issue (.crcCheck v')]) s := by
  have last (t : State) : afterCommand (.crcCheck v') (afterCommand (.crcCheck v) t) = afterCommand (.crcCheck v') t := rfl
  simp only [performAll_eq_next, afterEvents_append, afterEvents_cons, afterEvents_nil, afterEvent_issue, last]

theorem performAll_load_feeds_crcCheck {i : Instr} (hi : setsCrc i = true) {is : List Instr}
    (his : ∀ j ∈ is, fedBytes j ≠ []) {s : State} {v : Word}
    (value : crcFold (nextCrc i s.block.crc) (is.flatMap fedBytes) = v) (stored : Word) :
    performAll (issue i :: is.map issue ++ [issue (.crcCheck stored)]) s =
      completed s { s.block with crc := v, statusMatch := decide (crcFinal v = stored) }
        (if crcFinal v = stored then 1#32 else 0#32) := by
  rw [performAll_append_issue, afterEvents_load_feeds hi his value, exec_crcCheck]
  rfl

/-- R104, R111: what CRC_CHUNK feeds and CRC_CHECK compares. -/
theorem performAll_expandChunk_crcCheck (code : Word) (data : List Byte) (v : Word) (s : State) :
    performAll ((expandChunk code data).map issue ++ [issue (.crcCheck v)]) s =
      completed s { s.block with
        crc := crcFold crcSeed (wireBytes code ++ data)
        statusMatch := decide (chunkChecksum (wireBytes code) data = v) }
      (if chunkChecksum (wireBytes code) data = v then 1#32 else 0#32) := by
  have feeds : ∀ i ∈ [Instr.crcWord code] ++ expandStr data, fedBytes i ≠ [] :=
    List.forall_mem_append.mpr ⟨fedBytes_ne_nil_of_mem_crcWord code, fedBytes_ne_nil_of_mem_expandStr data⟩
  have value : crcFold crcSeed (([Instr.crcWord code] ++ expandStr data).flatMap fedBytes) =
      crcFold crcSeed (wireBytes code ++ data) := by
    rw [List.flatMap_append, flatMap_fedBytes_expandStr, List.flatMap_singleton, fedBytes]
  exact performAll_load_feeds_crcCheck (i := .crcInit) rfl feeds value v

theorem performAll_iend_crcCheck (v : Word) (s : State) :
    performAll ((expandChunk 0x49454E44#32 []).map issue ++ [issue (.crcCheck v)]) s =
      completed s { s.block with crc := 0x51BD9F7D#32, statusMatch := decide (0xAE426082#32 = v) }
        (if 0xAE426082#32 = v then 1#32 else 0#32) := by
  have fed : crcFold crcSeed (wireBytes 0x49454E44#32 ++ []) = 0x51BD9F7D#32 := by
    rw [List.append_nil, ← crcWord_eq_crcFold, crcWord_seed_iend]
  have checksum : chunkChecksum (wireBytes 0x49454E44#32) [] = 0xAE426082#32 := by
    rw [chunkChecksum, crc32, fed]
    decide
  rw [performAll_expandChunk_crcCheck, fed, checksum]

/-- Settles O24: every clause is a comparison of the final CRC of what was loaded and fed. -/
theorem crcCheckComparesTheFinalCrc : Obligations.CrcCheckComparesTheFinalCrc := by
  refine ⟨decode_commandWord 0x6#4, exec_crcCheck, fun s => ?_, fun s v hv => ⟨_, exec_crcCheck _ s, ?_⟩, fun s => ?_,
    fun v v' s => ?_, fun s => ⟨performAll_iend_crcCheck 0xAE426082#32 s, ?_⟩⟩
  · have raw := crcFinal_ne_self s.block.crc
    rw [exec_crcCheck, decide_eq_false raw, if_neg raw]
  · have final : v = crcFinal s.block.crc := hv
    rw [← eq_packBE_reversed_iff, decide_eq_true_iff, ← final]
  · exact performAll_load_feeds_crcCheck (i := .crcInit) rfl (is := []) (by simp) (v := crcSeed) rfl 0#32
  · rw [← performAll_issue]
    exact performAll_crcCheck_overwrites [] v v' s
  · rw [performAll_crcCheck_overwrites]
    exact performAll_iend_crcCheck 0x826042AE#32 s

/-- Settles O42: CRC_CHUNK feeds the type bytes and the data, and CRC_CHECK compares their CRC32. -/
theorem chunkIsVerifiedExactly : Obligations.ChunkIsVerifiedExactly := fun code data stored s => by
  refine ⟨_, performAll_expandChunk_crcCheck code data stored s, ?_, ?_⟩
  · rw [decide_eq_true_iff, eq_comm]
  · simp only [eq_comm]

end Sys2Proof.Machine
end

section
/-! Single-bit errors are detected (41_crc.md R115): no byte of a message and no type code can be another one and leave
the CRC as it was. -/

namespace Sys2Proof.Machine

theorem crcFinal_inj (c c' : Word) : crcFinal c = crcFinal c' ↔ c = c' := BitVec.xor_left_inj _

theorem crc32_byte_inj (before after : List Byte) (d d' : Byte) :
    crc32 (before ++ d :: after) = crc32 (before ++ d' :: after) ↔ d = d' := by
  simp only [crc32, crcFinal_inj, crcFold_append, crcFold_cons, crcFold_register_inj, crcByte_byte_inj]

theorem chunkChecksum_typeCode_inj (code code' : Word) (data : List Byte) :
    chunkChecksum (wireBytes code) data = chunkChecksum (wireBytes code') data ↔ code = code' := by
  simp only [chunkChecksum, crc32, crcFinal_inj, crcFold_append, crcFold_register_inj, ← crcWord_eq_crcFold,
    crcWord_arg_inj]

theorem xor_bit_ne_self (n : Nat) (x : BitVec n) (k : Fin n) : x ^^^ 1#n <<< k.val ≠ x := by
  rw [Ne, xor_eq_self_iff]
  intro zero
  have flipped : (1#n <<< k.val).getLsbD k.val = true := by simp
  rw [zero, BitVec.getLsbD_zero] at flipped
  exact Bool.false_ne_true flipped

/-- A chunk whose checksum is not the stored one fails the check. -/
theorem crcCheck_fails_of_chunkChecksum_ne {code : Word} {data : List Byte} {stored : Word}
    (differ : chunkChecksum (wireBytes code) data ≠ stored) (s : State) :
    ∃ t, performAll ((expandChunk code data).map issue ++ [issue (.crcCheck stored)]) s = .next t ∧
      t.rsp = some 0#32 ∧ t.block.statusMatch = false :=
  ⟨_, performAll_expandChunk_crcCheck code data stored s, by rw [if_neg differ], decide_eq_false differ⟩

/-- Settles O45: a flipped bit makes another byte or another type code, and so another checksum. -/
theorem singleBitErrorsAreDetected : Obligations.SingleBitErrorsAreDetected := by
  have flipped (before after : List Byte) (d : Byte) (k : Fin 8) :
      crc32 (before ++ (d ^^^ 1#8 <<< k.val) :: after) ≠ crc32 (before ++ d :: after) := fun same =>
    xor_bit_ne_self 8 d k ((crc32_byte_inj before after _ d).mp same)
  refine ⟨flipped, fun code before after d k s => crcCheck_fails_of_chunkChecksum_ne ?_ s, fun code data k s =>
    crcCheck_fails_of_chunkChecksum_ne
      (fun same => xor_bit_ne_self 32 code k ((chunkChecksum_typeCode_inj _ _ _).mp same)) s⟩
  rw [chunkChecksum, chunkChecksum, ← List.append_assoc, ← List.append_assoc]
  exact flipped (wireBytes code ++ before) after d k

end Sys2Proof.Machine
end

section
/-! NOP, STATUS_READ, STATUS_CLEAR and the reserved commands (42_control.md R130 to R133). -/

namespace Sys2Proof.Machine

theorem performAll_issue_cons (i : Instr) (es : List HostEvent) (s : State) :
    performAll (issue i :: es) s = performAll es (afterCommand i s) := by
  rw [performAll_cons, performEvent_eq_next, Result.andThen_next, afterEvent_issue]

theorem exec_statusRead (s : State) : exec .statusRead s = completed s s.block s.block.statusWord :=
  exec_eq_completed .statusRead s

/-- R23, R26: MATCH, then ILLEGAL, and 0 in every higher bit. -/
theorem statusWord_hasBits (b : Block) : HasBits b.statusWord [b.statusMatch, b.statusIllegal] :=
  ((hasBits_bit b.statusIllegal).append_bit b.statusMatch).setWidth (show 2 ≤ 32 by decide)

theorem statusWord_eq_ofNat (b : Block) :
    b.statusWord = BitVec.ofNat 32 (2 * b.statusIllegal.toNat + b.statusMatch.toNat) := by
  rw [Block.statusWord]
  cases b.statusIllegal <;> cases b.statusMatch <;> decide

/-- R132: STATUS_CLEAR reads nothing of STATUS. -/
theorem exec_statusClear (s : State) :
    exec .statusClear s = completed s { s.block with statusMatch := false, statusIllegal := false } 0#32 :=
  exec_eq_completed .statusClear s

/-- R133: the five reserved commands behave alike. -/
theorem exec_of_isReserved {i : Instr} (h : i.isReserved = true) (s : State) :
    exec i s = completed s { s.block with statusIllegal := true } 0#32 := by
  cases i with
  | rsvd0xB | rsvd0xC | rsvd0xD | rsvd0xE | rsvd0xF => exact exec_eq_completed _ s
  | _ => cases h

theorem afterCommand_of_isReserved {i : Instr} (h : i.isReserved = true) (s : State) :
    afterCommand i s = { s with block := { s.block with statusIllegal := true }, rsp := some 0#32 } :=
  Host.Outcome.next.inj ((exec_eq_next i s).symm.trans (exec_of_isReserved h s))

/-- R132: what a reserved command leaves, STATUS_CLEAR clears. -/
theorem exec_statusClear_afterCommand_of_isReserved {i : Instr} (h : i.isReserved = true) (s : State) :
    exec .statusClear (afterCommand i s) = exec .statusClear s := by
  rw [afterCommand_of_isReserved h, exec_statusClear, exec_statusClear]
  rfl

theorem isReserved_of_mem_rsvd :
    ∀ i ∈ [Instr.rsvd0xB, .rsvd0xC, .rsvd0xD, .rsvd0xE, .rsvd0xF], i.isReserved = true := by decide

/-- Settles O14: NOP writes no element of the block and is the command of `cmd` 0. -/
theorem nopAnswersZeroAndChangesNothing : Obligations.NopAnswersZeroAndChangesNothing :=
  ⟨decode_commandWord 0x0#4, exec_eq_completed .nop, decode_encode .nop⟩

/-- Settles O27: the response is the STATUS word of the block as the commands before leave it. -/
theorem statusReadShowsTheTwoBits : Obligations.StatusReadShowsTheTwoBits := by
  refine ⟨decode_commandWord 0x9#4, fun s => ⟨s.block.statusWord, exec_statusRead s, ?_⟩, fun s => ?_, fun s v hv => ?_⟩
  · have bits := statusWord_hasBits s.block
    exact ⟨bits 0, bits 1, fun k high => (bits k).trans (List.getD_eq_default _ _ high)⟩
  · rw [performAll_cons, performEvent_reset, Result.andThen_next, performAll_issue, exec_statusRead,
      State.resetBlock_block, Block.reset_statusWord]
    rfl
  · have final : v = crcFinal s.block.crc := hv
    have checked : (afterCommand (.crcCheck v) (afterCommand .rsvd0xF s)).block =
        { s.block with statusMatch := true, statusIllegal := true } := by
      rw [afterCommand_block, nextBlock_crcCheck, afterCommand_of_isReserved rfl, final, checksumMatches_crcFinal]
    rw [performAll_issue_cons, performAll_issue_cons, performAll_issue, exec_statusRead, checked, statusWord_eq_ofNat]
    rfl

/-- Settles O28: STATUS_CLEAR overwrites both bits, so what they held before reaches nothing after it. -/
theorem statusClearClearsBothBits : Obligations.StatusClearClearsBothBits := by
  refine ⟨decode_commandWord 0xA#4, exec_statusClear, performAll_issue_twice_eq_exec rfl, fun s i hi => ?_, fun s => ?_⟩
  · rw [performAll_issue_cons, performAll_issue,
      exec_statusClear_afterCommand_of_isReserved (isReserved_of_mem_rsvd i hi)]
  · rw [performAll_issue_cons, performAll_issue, exec_statusRead, statusWord_eq_ofNat]
    rfl

/-- Settles O29: the five values are five commands with one effect. -/
theorem reservedCommandsOnlySetIllegal : Obligations.ReservedCommandsOnlySetIllegal := by
  refine ⟨fun arg => ?_, fun s i hi => exec_of_isReserved (isReserved_of_mem_rsvd i hi) s, fun s => ?_⟩
  · exact ⟨decode_commandWord 0xB#4 arg, decode_commandWord 0xC#4 arg, decode_commandWord 0xD#4 arg,
      decode_commandWord 0xE#4 arg, decode_commandWord 0xF#4 arg⟩
  · rw [performAll_issue_cons, performAll_issue_cons, performAll_issue, exec_statusRead, statusWord_eq_ofNat]
    rfl

end Sys2Proof.Machine
end

section
/-! Every command completes (60_exceptions.md R140): the machine after it is a state from which the next event is
performed. -/

namespace Sys2Proof.Machine

theorem step_eq_next_of_pending_cons (s : State) (e : HostEvent) (rest : List HostEvent) (hp : s.pending = e :: rest) :
    step s = .next (afterEvent e { s with pending := rest }) := by
  rw [step_of_pending_cons s e rest hp, performEvent_eq_next]

/-- Settles O9: the step performs the oldest event and leaves the rest of the port for the step after it. -/
theorem everyCommandCompletes : Obligations.EveryCommandCompletes := by
  refine ⟨fun i s => ⟨_, _, exec_eq_completed i s⟩, fun w w' rest s hp => ?_, fun s hp => ?_⟩
  · exact ⟨_, _, step_eq_next_of_pending_cons s _ _ hp, rfl, rfl, step_of_pending_command _ w' rest rfl⟩
  · obtain ⟨e, rest, hcons⟩ := List.exists_cons_of_ne_nil hp
    exact ⟨_, step_eq_next_of_pending_cons s e rest hcons⟩

end Sys2Proof.Machine
end

section
/-! The conditions (60_exceptions.md R141 to R145): said once which command raises which, then what it records. -/

namespace Sys2Proof.Machine

theorem checksumMatches_eq_false_iff (c checksum : Word) : checksumMatches c checksum = false ↔ crcFinal c ≠ checksum :=
  beq_eq_false_iff_ne

theorem conditionsOf_of_isReserved {i : Instr} (h : i.isReserved = true) (b : Block) :
    conditionsOf i b = [.illegalCmd] := by
  cases i with
  | rsvd0xB | rsvd0xC | rsvd0xD | rsvd0xE | rsvd0xF => rfl
  | _ => cases h

theorem conditionsOf_crcCheck (checksum : Word) (b : Block) :
    conditionsOf (.crcCheck checksum) b = if checksumMatches b.crc checksum then [] else [.crcMismatch] := rfl

theorem conditionsOf_tcEval (arg : Word) (b : Block) :
    conditionsOf (.tcEval arg) b =
      (if wellFormedCode arg then [] else [.tcNotWf]) ++ (if validCode arg then [] else [.tcNotValid]) := rfl

/-- R141: the conditions, one disjunct each: the commands that raise it and when they do. -/
theorem mem_conditionsOf_iff (c : Condition) (i : Instr) (b : Block) :
    c ∈ conditionsOf i b ↔
      (c = .illegalCmd ∧ i.isReserved = true) ∨
      (c = .crcMismatch ∧ ∃ arg, i = .crcCheck arg ∧ crcFinal b.crc ≠ arg) ∨
      (c = .tcNotWf ∧ ∃ arg, i = .tcEval arg ∧ wellFormedCode arg = false) ∨
      (c = .tcNotValid ∧ ∃ arg, i = .tcEval arg ∧ validCode arg = false) := by
  cases i with
  | rsvd0xB | rsvd0xC | rsvd0xD | rsvd0xE | rsvd0xF =>
    rw [conditionsOf_of_isReserved rfl]
    simp [Instr.isReserved]
  | crcCheck checksum =>
    rw [conditionsOf_crcCheck]
    cases h : checksumMatches b.crc checksum <;> simp [Instr.isReserved, ← checksumMatches_eq_false_iff, h]
  | tcEval arg =>
    rw [conditionsOf_tcEval]
    cases hw : wellFormedCode arg <;> cases hv : validCode arg <;> simp [Instr.isReserved, hw, hv]
  | _ => simp [conditionsOf, Instr.isReserved]

section
variable (i : Instr) (b : Block)

theorem illegalCmd_mem_conditionsOf_iff : .illegalCmd ∈ conditionsOf i b ↔ i.isReserved = true := by
  simp [mem_conditionsOf_iff]

theorem crcMismatch_mem_conditionsOf_iff :
    .crcMismatch ∈ conditionsOf i b ↔ ∃ arg, i = .crcCheck arg ∧ crcFinal b.crc ≠ arg := by
  simp [mem_conditionsOf_iff]

theorem tcNotWf_mem_conditionsOf_iff :
    .tcNotWf ∈ conditionsOf i b ↔ ∃ arg, i = .tcEval arg ∧ wellFormedCode arg = false := by
  simp [mem_conditionsOf_iff]

theorem tcNotValid_mem_conditionsOf_iff :
    .tcNotValid ∈ conditionsOf i b ↔ ∃ arg, i = .tcEval arg ∧ validCode arg = false := by
  simp [mem_conditionsOf_iff]

end

/-- R145: an ill-formed code is never valid, so both conditions are raised, the more specific first. -/
theorem conditionsOf_tcEval_of_not_wellFormed {arg : Word} (h : wellFormedCode arg = false) (b : Block) :
    conditionsOf (.tcEval arg) b = [.tcNotWf, .tcNotValid] := by
  rw [conditionsOf_tcEval, h, validCode_of_not_wellFormed h]
  rfl

/-- R133: what a reserved command answers and leaves in the block. -/
theorem isReserved_records {i : Instr} (h : i.isReserved = true) (s : State) :
    response i s.block = 0#32 ∧ nextBlock i s.block = { s.block with statusIllegal := true } := by
  have after := afterCommand_of_isReserved h s
  exact ⟨Option.some.inj (congrArg State.rsp after), congrArg State.block after⟩

/-- R111: what a failed check answers and leaves in the block. -/
theorem crcCheck_mismatch_records {checksum : Word} {b : Block} (h : crcFinal b.crc ≠ checksum) :
    response (.crcCheck checksum) b = 0#32 ∧ nextBlock (.crcCheck checksum) b = { b with statusMatch := false } := by
  rw [response_crcCheck, nextBlock_crcCheck, (checksumMatches_eq_false_iff _ _).mpr h]
  exact ⟨rfl, rfl⟩

/-- R88: the bits of the flag word that show an ill-formed code and its failing bytes. -/
theorem flagWord_of_not_wellFormed {arg : Word} (h : wellFormedCode arg = false) :
    (flagWord arg).getLsbD 0 = false ∧ (flagWord arg).getLsbD 8 = alpha (byte1 arg) ∧
      (flagWord arg).getLsbD 9 = alpha (byte2 arg) ∧ (flagWord arg).getLsbD 10 = alpha (byte3 arg) ∧
      (flagWord arg).getLsbD 11 = alpha (byte4 arg) :=
  have bits := flagWord_hasBits arg
  ⟨(bits 0).trans h, bits 8, bits 9, bits 10, bits 11⟩

/-- R87, R88: the flag word of a code that is not valid; where the code is well-formed, its reserved bit is to blame. -/
theorem flagWord_of_not_valid {arg : Word} (h : validCode arg = false) :
    (flagWord arg).getLsbD 5 = false ∧ ((flagWord arg).getLsbD 0 = true → (flagWord arg).getLsbD 3 = false) := by
  have bits := flagWord_hasBits arg
  refine ⟨(bits 5).trans h, fun wellFormed => (bits 3).trans ?_⟩
  have wf : wellFormedCode arg = true := (bits 0).symm.trans wellFormed
  exact (validCode_of_wellFormed wf).symm.trans h

/-- Settles O47: each condition has its commands, and each of those its record. -/
theorem conditionsAreRecorded : Obligations.ConditionsAreRecorded := by
  intro i s
  have tcEvalKeeps (arg : Word) : nextBlock (.tcEval arg) s.block = s.block := nextBlock_of_writesNothing rfl s.block
  refine ⟨afterCommand i s, response i s.block, exec_eq_next i s, rfl,
    illegalCmd_mem_conditionsOf_iff i s.block, fun raised => ?_,
    crcMismatch_mem_conditionsOf_iff i s.block, fun raised => ?_,
    tcNotWf_mem_conditionsOf_iff i s.block, fun arg hi raised => ?_,
    tcNotValid_mem_conditionsOf_iff i s.block, fun raised => ?_⟩
  · exact isReserved_records ((illegalCmd_mem_conditionsOf_iff i s.block).mp raised) s
  · obtain ⟨checksum, rfl, differ⟩ := (crcMismatch_mem_conditionsOf_iff i s.block).mp raised
    exact crcCheck_mismatch_records differ
  · obtain ⟨arg', rfl, notWf⟩ := (tcNotWf_mem_conditionsOf_iff i s.block).mp raised
    cases hi
    exact ⟨tcEvalKeeps arg, flagWord_of_not_wellFormed notWf⟩
  · obtain ⟨arg, rfl, notValid⟩ := (tcNotValid_mem_conditionsOf_iff i s.block).mp raised
    exact ⟨tcEvalKeeps arg, flagWord_of_not_valid notValid⟩

/-- Settles O48: no reserved command is a check, and TC_EVAL of an ill-formed code raises its two conditions in order. -/
theorem conditionPriority : Obligations.ConditionPriority := by
  intro i b
  refine ⟨fun ⟨illegal, mismatch⟩ => ?_, fun notWf => ?_, fun raised => ?_⟩
  · obtain ⟨checksum, rfl, -⟩ := (crcMismatch_mem_conditionsOf_iff i b).mp mismatch
    cases (illegalCmd_mem_conditionsOf_iff _ b).mp illegal
  · obtain ⟨arg, rfl, ill⟩ := (tcNotWf_mem_conditionsOf_iff i b).mp notWf
    rw [reportedCondition, conditionsOf_tcEval_of_not_wellFormed ill]
    exact ⟨.tail _ (.head _), rfl⟩
  · exact ⟨_, List.head_mem raised, List.head?_eq_some_head raised⟩

theorem wellFormedCode_eq_false_iff (w : Word) : wellFormedCode w = false ↔ ∃ d ∈ wireBytes w, alpha d = false := by
  have all : wellFormedCode w = (wireBytes w).all alpha := by simp [wellFormedCode, wireBytes, Bool.and_assoc]
  rw [all, List.all_eq_false]
  simp only [Bool.not_eq_true]

/-- Settles O49: the two forms are TC_NOT_WF and CRC_MISMATCH, each raised by its command exactly on its cause. -/
theorem twoErrorKindsAreTheBlocks : Obligations.TwoErrorKindsAreTheBlocks := by
  refine ⟨fun k => ?_, fun arg b c form => ?_, fun stored b c form => ?_⟩
  · cases k <;> decide
  · cases form
    rw [tcNotWf_mem_conditionsOf_iff, ← wellFormedCode_eq_false_iff]
    simp
  · cases form
    rw [crcMismatch_mem_conditionsOf_iff]
    simp

end Sys2Proof.Machine
end

section
/-! STATUS.ILLEGAL over a sequence of commands without STATUS_CLEAR (70_reset_and_hazards.md R166). -/

namespace Sys2Proof.Machine

theorem nextIllegal_of_ne_statusClear {i : Instr} (h : i ≠ .statusClear) (illegal : Bool) :
    nextIllegal i illegal = (illegal || i.isReserved) := by
  cases hr : i.isReserved with
  | true => rw [nextIllegal_of_isReserved hr, Bool.or_true]
  | false => rw [nextIllegal_of_other hr h, Bool.or_false]

/-- R25: the bit gathers, over the sequence, whether a reserved command was among the commands. -/
theorem afterEvents_map_issue_statusIllegal {is : List Instr} (his : ∀ i ∈ is, i ≠ .statusClear) (s : State) :
    (afterEvents (is.map issue) s).block.statusIllegal = (s.block.statusIllegal || is.any Instr.isReserved) := by
  induction is generalizing s with
  | nil => exact (Bool.or_false _).symm
  | cons i is ih =>
    obtain ⟨hi, his⟩ := List.forall_mem_cons.mp his
    rw [List.map_cons, afterEvents_cons, afterEvent_issue, ih his, afterCommand_block, nextBlock_statusIllegal,
      nextIllegal_of_ne_statusClear hi, List.any_cons, Bool.or_assoc]

/-- Settles O32: STATUS_CLEAR leaves the bit clear, the sequence gathers in it, and STATUS_READ answers it as bit 1. -/
theorem statusAuditsTheSequence : Obligations.StatusAuditsTheSequence := by
  intro is s his
  refine ⟨_, _, (performAll_append_issue _ .statusRead s).trans (exec_statusRead _), rfl, ?_⟩
  rw [afterEvents_cons, afterEvent_issue]
  calc (afterEvents (is.map issue) (afterCommand .statusClear s)).block.statusWord.getLsbD 1
      = (afterEvents (is.map issue) (afterCommand .statusClear s)).block.statusIllegal := statusWord_hasBits _ 1
    _ = (false || is.any Instr.isReserved) := afterEvents_map_issue_statusIllegal his _
    _ = is.any Instr.isReserved := Bool.false_or _

end Sys2Proof.Machine
end

section
/-! A command overtaken by a reset (70_reset_and_hazards.md R162). -/

namespace Sys2Proof.Machine

/-- Settles O37: the command completes, and the reset that overtakes it keeps its response or drops it. -/
theorem overtakenCommandLeavesTheResetState : Obligations.OvertakenCommandLeavesTheResetState := fun w s =>
  ⟨_, _, _, exec_eq_completed (decode w) s, performEvent_eq_next (.overtakenCommand w) s, State.overtake_block _,
    State.overtake_rsp_cases (afterCommand (decode w) s), afterEvent_pending _ s⟩

end Sys2Proof.Machine
end
